-- ==== Sys2Proof/Word.lean ====
section
/-! DEFINITION. The word types of MFCC-CORE (20_memory.md R71): 64-bit words, 32-bit word addresses, and the byte of a
bus lane (R73). -/

namespace Sys2Proof

/-- One bus word (20_memory.md R71). Bit 0 is the least significant bit (00_scope.md R9). -/
abbrev Word := BitVec 64

/-- A word address of the host bus (20_memory.md R71). -/
abbrev Addr := BitVec 32

/-- What one byte lane of the bus carries, where an implementation's bus has lanes (20_memory.md R73). -/
abbrev Byte := BitVec 8

end Sys2Proof
end

