-- ==== Sys2Proof/Config.lean ====
section
/-! DEFINITION. What an implementation fixes (the parameters of 00_scope.md R6) and the free values the spec leaves open.
A free value is an opaque constant without a body: nothing can evaluate it, so a theorem about it holds whatever it is. -/

namespace Sys2Proof

/-- `NUM_FMT` (00_scope.md R6, R12): the number format of every sample, coefficient and result. -/
inductive NumFmt where
  | binary32
  | binary64
deriving DecidableEq, Repr

/-- `NUMF` (00_scope.md R6, R15): which transcendental primitives the block is built with. -/
inductive Numf where
  /-- The reference instantiation: correctly rounded (R16). -/
  | reference
  /-- Some other build, numbered: functions of which nothing but the exact cases of R15 is known. -/
  | other (k : Nat)
deriving DecidableEq, Repr

/-- The build parameters of 00_scope.md R6. DESIGN CHOICE (log 2): the model's State carries them as a constant, so that
every statement over all states holds for every build. -/
structure Params where
  /-- `NUM_FMT` -/
  numFmt : NumFmt
  /-- `N_MAX`, capacity of SIN, PRE, WIN, HANN -/
  nMax : Nat
  /-- `F_MAX`, capacity of RE, IM, AMP -/
  fMax : Nat
  /-- `C_MAX`, capacity of the channel buffers and of the filter bank -/
  cMax : Nat
  /-- `NUMF` -/
  numf : Numf
deriving DecidableEq, Repr

/-- The reference instantiation (00_scope.md R6). -/
def Params.reference : Params :=
  ⟨.binary64, 4096, 65536, 64, .reference⟩

/-- The word an UNSPECIFIED host read returns, one for each draw (20_memory.md R80, R85; 93_implementation_defined.md
I8, I9). Free value, log 6. -/
opaque Config.freeWord : Nat → Word

/-- How many host turns come before the completion of the command accepted at this draw (42_control.md R186;
93_implementation_defined.md I14). Free value, log 7. -/
opaque Config.freeLatency : Nat → Nat

/-- Whether the response of a transaction in flight when `rst_n` falls is OKAY (70_reset_and_hazards.md R230;
93_implementation_defined.md I11). Free value, log 10. -/
opaque Config.freeOkay : Nat → Bool

/-- What a command reads from an entry that holds no value, by word address: 10_state.md R56 says that no command ever
does. Free value, log 11. -/
opaque Config.freeOperand : Nat → Word

/-- `cosT(j, d)` of a build's `NUMF` where 00_scope.md R15 fixes no value. Free value, log 3. -/
opaque Config.cosFree : Numf → NumFmt → Nat → Nat → Word

/-- `sinT(j, d)` of a build's `NUMF` where 00_scope.md R15 fixes no value. Free value, log 3. -/
opaque Config.sinFree : Numf → NumFmt → Nat → Nat → Word

/-- `lnF(x)` of a build's `NUMF` where 00_scope.md R15 fixes no value. Free value, logs 3 and 5. -/
opaque Config.lnFree : Numf → NumFmt → Word → Word

/-- `expF(x)` of a build's `NUMF` where 00_scope.md R15 fixes no value. Free value, logs 3 and 5. -/
opaque Config.expFree : Numf → NumFmt → Word → Word

/-- `log10F(x)` of a build's `NUMF` where 00_scope.md R15 fixes no value. Free value, log 3. -/
opaque Config.log10Free : Numf → NumFmt → Word → Word

end Sys2Proof
end

