-- ==== Sys2Proof/Syntax.lean ====
section
/-! DEFINITION. The commands of MFCC-CORE: one constructor per row of the opcode map (30_encoding.md R101). A command has
no operand: everything it reads is in the configuration registers and the buffers (R103). -/

namespace Sys2Proof

/-- A command (30_encoding.md R101). -/
inductive Instr where
  /-- completes with no effect other than status (42_control.md R183) -/
  | nop
  /-- fills the Hann table (40_tables.md R123) -/
  | buildHann
  /-- fills the filter-bank tables (40_tables.md R126) -/
  | buildFb
  /-- returns the block to its reset state (42_control.md R185) -/
  | softReset
  /-- clears ERR, ERRCODE, ERR_INFO and DROPPED (42_control.md R184) -/
  | clearStatus
  /-- SIN to PRE (41_stages.md R140) -/
  | preemph
  /-- PRE times HANN to WIN (41_stages.md R145) -/
  | window
  /-- WIN to RE and IM (41_stages.md R150) -/
  | dft
  /-- RE and IM to AMP (41_stages.md R155) -/
  | mag
  /-- AMP times the filter bank to MEL (41_stages.md R160) -/
  | melfb
  /-- MEL to LOGMEL (41_stages.md R170) -/
  | log
  /-- the whole chain, all or nothing (42_control.md R187) -/
  | run
deriving DecidableEq, Repr

end Sys2Proof
end

