-- ==== Sys2Proof/WellFormed.lean ====
section
/-! DEFINITION. What is well formed: a command word (30_encoding.md R100, R101), a command, and a build's parameters
(00_scope.md R6). -/

namespace Sys2Proof

/-- The OP values of the opcode map (30_encoding.md R101). -/
def assignedOps : List (BitVec 8) :=
  [0x00, 0x01, 0x02, 0x0E, 0x0F, 0x10, 0x11, 0x12, 0x13, 0x14, 0x15, 0x20]

/-- A word is a command exactly when RSV = 0 and OP is assigned (30_encoding.md R101). -/
def Word.isCommand (w : Word) : Bool :=
  w.extractLsb' 8 56 == 0 && assignedOps.contains (w.extractLsb' 0 8)

/-- A command has no operand field, so every command is well formed (30_encoding.md R103). -/
def Instr.wf : Instr → Bool
  | .nop | .buildHann | .buildFb | .softReset | .clearStatus | .preemph
  | .window | .dft | .mag | .melfb | .log | .run => true

/-- The legal values of the capacities (00_scope.md R6). -/
def Params.legal (p : Params) : Bool :=
  decide (1024 ≤ p.nMax) && decide (p.nMax ≤ 2 ^ 24) &&
  decide (44000 ≤ p.fMax) && decide (p.fMax ≤ 2 ^ 24) &&
  decide (20 ≤ p.cMax) && decide (p.cMax ≤ 128)

end Sys2Proof
end

