-- ==== Sys2Proof/Decode.lean ====
section
/-! DEFINITION. Decoding and encoding of command words (30_encoding.md R100 to R104) and the byte lanes of a word
(20_memory.md R73). -/

namespace Sys2Proof

/-- Why a word, or a run of bytes, is not a command (30_encoding.md R102, R104). -/
inductive DecodeReject where
  /-- bits 63:8 are not all 0 -/
  | reservedBitsSet
  /-- OP is not in the opcode map -/
  | unassignedOp
  /-- not exactly the eight byte lanes of one word -/
  | notOneWord
deriving DecidableEq, Repr

/-- Bits 63:8 of a command word, which must be 0 (30_encoding.md R100). -/
def Word.rsv (w : Word) : BitVec 56 := w.extractLsb' 8 56

/-- Bits 7:0 of a command word (30_encoding.md R100). -/
def Word.op (w : Word) : BitVec 8 := w.extractLsb' 0 8

/-- The opcode map (30_encoding.md R101). -/
def opcodeMap : List (BitVec 8 × Instr) :=
  [(0x00, .nop), (0x01, .buildHann), (0x02, .buildFb), (0x0E, .softReset), (0x0F, .clearStatus),
   (0x10, .preemph), (0x11, .window), (0x12, .dft), (0x13, .mag), (0x14, .melfb), (0x15, .log),
   (0x20, .run)]

/-- Decoding, total on all words (30_encoding.md R102). -/
def decodeWord (w : Word) : Except DecodeReject Instr :=
  if Word.rsv w = 0 then
    match opcodeMap.lookup (Word.op w) with
    | some i => .ok i
    | none => .error .unassignedOp
  else .error .reservedBitsSet

/-- Byte lane k carries word bits 8k+7 to 8k (20_memory.md R73). -/
def Word.lane (w : Word) (k : Nat) : Byte := w.extractLsb' (8 * k) 8

/-- The eight byte lanes of a word, lane 0 first (20_memory.md R73). -/
def Word.lanes (w : Word) : List Byte := (List.range 8).map (Word.lane w)

/-- The word that byte lanes carry, lane 0 first (20_memory.md R73). -/
def wordOfLanes (bs : List Byte) : Word :=
  bs.foldr (fun b acc => acc <<< 8 ||| b.setWidth 64) 0

/-- Decoding of any run of bytes: a command is the eight lanes of one word (30_encoding.md R104). -/
def decodeLanes (bs : List Byte) : Except DecodeReject Instr :=
  if bs.length = 8 then decodeWord (wordOfLanes bs) else .error .notOneWord

/-- OP of a command (30_encoding.md R101). -/
def Instr.op : Instr → BitVec 8
  | .nop => 0x00
  | .buildHann => 0x01
  | .buildFb => 0x02
  | .softReset => 0x0E
  | .clearStatus => 0x0F
  | .preemph => 0x10
  | .window => 0x11
  | .dft => 0x12
  | .mag => 0x13
  | .melfb => 0x14
  | .log => 0x15
  | .run => 0x20

/-- Encoding: the full match value `0x00000000000000OP` (30_encoding.md R101). -/
def encode (i : Instr) : Word := i.op.setWidth 64

/-- The word of a table row: the low `nbits` bits of `w`, every bit above them 0. -/
def tableWord (nbits w : Nat) : Word := BitVec.ofNat 64 (w % 2 ^ nbits)

/-- The command the decoder reads from the table's bits, laid out in the bus's byte lanes. -/
def decodeTableWord (nbits w : Nat) : Option Instr :=
  (decodeLanes (Word.lanes (tableWord nbits w))).toOption

end Sys2Proof
end

