-- ==== Sys2Proof/Machine/Num.lean ====
section
/-! DEFINITION. Numbers (00_scope.md R12, R13, R17 to R19): the IEEE 754 interchange encodings of both formats and the
basic operations, each computed exactly on integers and rounded once at the end. -/

namespace Sys2Proof.Machine

/-- Number of trailing significand bits (00_scope.md R12; IEEE 754-2008 §3.4). -/
def fracBits : NumFmt → Nat
  | .binary32 => 23
  | .binary64 => 52

/-- Number of exponent bits. -/
def expBits : NumFmt → Nat
  | .binary32 => 8
  | .binary64 => 11

/-- The exponent of the least significant bit of a subnormal number. -/
def minExp : NumFmt → Int
  | .binary32 => -149
  | .binary64 => -1074

/-- Number of bits of an encoding. -/
def numWidth (f : NumFmt) : Nat := 1 + expBits f + fracBits f

/-- What a `Num` location keeps of a written word: all of it, or with binary32 its low half (20_memory.md R72, R83). -/
def truncNum (f : NumFmt) (w : Word) : Word :=
  match f with
  | .binary32 => w &&& 0x00000000FFFFFFFF#64
  | .binary64 => w

/-- A number: NaN, an infinity, or `(-1)^neg · m · 2^e` exactly (00_scope.md R12). -/
inductive FVal where
  | nan
  | inf (neg : Bool)
  | fin (neg : Bool) (m : Nat) (e : Int)
deriving DecidableEq, Repr

/-- The number an encoding stands for (00_scope.md R12; IEEE 754-2008 §3.4). -/
def unpack (f : NumFmt) (w : Word) : FVal :=
  let frac := w.toNat % 2 ^ fracBits f
  let ex := w.toNat / 2 ^ fracBits f % 2 ^ expBits f
  let neg := w.toNat / 2 ^ (expBits f + fracBits f) % 2 == 1
  if ex = 2 ^ expBits f - 1 then
    if frac = 0 then .inf neg else .nan
  else if ex = 0 then .fin neg frac (minExp f)
  else .fin neg (2 ^ fracBits f + frac) (minExp f + (ex - 1 : Nat))

/-- The encoding with a sign and the bits below the sign. -/
def signed (f : NumFmt) (neg : Bool) (bits : Nat) : Word :=
  BitVec.ofNat 64 ((if neg then 2 ^ (expBits f + fracBits f) else 0) + bits)

/-- The bits of an infinity below its sign. -/
def infBits (f : NumFmt) : Nat := (2 ^ expBits f - 1) * 2 ^ fracBits f

/-- A zero of a sign. -/
def zeroNum (f : NumFmt) (neg : Bool) : Word := signed f neg 0

/-- An infinity of a sign. -/
def infNum (f : NumFmt) (neg : Bool) : Word := signed f neg (infBits f)

/-- `QNAN`, the canonical quiet NaN (00_scope.md R13). -/
def qnan : NumFmt → Word
  | .binary32 => 0x7FC00000
  | .binary64 => 0x7FF8000000000000

/-- The quotient `a / b` as an integer, rounded to nearest, ties to even. -/
def roundDiv (a b : Nat) : Nat :=
  let q := a / b
  let r := a % b
  if b < 2 * r ∨ (2 * r = b ∧ q % 2 = 1) then q + 1 else q

/-- The exponent of the leading bit of `n / d`, for positive n and d: the greatest k with `2^k ≤ n / d`. -/
def leadExp (n d : Nat) : Int :=
  let k : Int := (Nat.log2 n : Int) - (Nat.log2 d : Int)
  if n * 2 ^ (-k).toNat < d * 2 ^ k.toNat then k - 1 else k

/-- The `Num` nearest to `(-1)^neg · (n / d) · 2^e`, ties to even, with gradual underflow and with overflow to infinity
(00_scope.md R13). The unit of the result's last bit is `2^u`; a carry of the significand runs into the exponent. -/
def roundNum (f : NumFmt) (neg : Bool) (n d : Nat) (e : Int) : Word :=
  if n = 0 then zeroNum f neg
  else
    let u : Int := max (leadExp n d + e - fracBits f) (minExp f)
    let q := roundDiv (n * 2 ^ (e - u).toNat) (d * 2 ^ (u - e).toNat)
    signed f neg (min ((u - minExp f).toNat * 2 ^ fracBits f + q) (infBits f))

/-- The `Num` nearest to an integer times a power of two; an exact zero is +0. -/
def roundInt (f : NumFmt) (v : Int) (e : Int) : Word :=
  roundNum f (decide (v < 0)) v.natAbs 1 e

/-- `fneg(a)`: flips the sign bit; a NaN it returns is canonical (00_scope.md R13). -/
def fneg (f : NumFmt) (a : Word) : Word :=
  match unpack f a with
  | .nan => qnan f
  | _ => truncNum f (a ^^^ signed f true 0)

/-- The signed integer `(-1)^neg · m`. -/
def signedMant (neg : Bool) (m : Nat) : Int := if neg then -(m : Int) else m

/-- `fadd(a, b)` (00_scope.md R13). An exact zero sum is +0 unless both operands are negative (IEEE 754-2008 §6.3). -/
def fadd (f : NumFmt) (a b : Word) : Word :=
  match unpack f a, unpack f b with
  | .nan, _ => qnan f
  | _, .nan => qnan f
  | .inf sa, .inf sb => if sa = sb then infNum f sa else qnan f
  | .inf sa, .fin _ _ _ => infNum f sa
  | .fin _ _ _, .inf sb => infNum f sb
  | .fin sa ma ea, .fin sb mb eb =>
    let e := min ea eb
    let v := signedMant sa ma * 2 ^ (ea - e).toNat + signedMant sb mb * 2 ^ (eb - e).toNat
    if v = 0 then zeroNum f (sa && sb) else roundInt f v e

/-- `fsub(a, b)`: the sum of a and b with b's sign flipped (00_scope.md R13). -/
def fsub (f : NumFmt) (a b : Word) : Word := fadd f a (fneg f b)

/-- `fmul(a, b)` (00_scope.md R13). -/
def fmul (f : NumFmt) (a b : Word) : Word :=
  match unpack f a, unpack f b with
  | .nan, _ => qnan f
  | _, .nan => qnan f
  | .inf sa, .inf sb => infNum f (sa ^^ sb)
  | .inf sa, .fin sb mb _ => if mb = 0 then qnan f else infNum f (sa ^^ sb)
  | .fin sa ma _, .inf sb => if ma = 0 then qnan f else infNum f (sa ^^ sb)
  | .fin sa ma ea, .fin sb mb eb => roundNum f (sa ^^ sb) (ma * mb) 1 (ea + eb)

/-- `fdiv(a, b)` (00_scope.md R13). -/
def fdiv (f : NumFmt) (a b : Word) : Word :=
  match unpack f a, unpack f b with
  | .nan, _ => qnan f
  | _, .nan => qnan f
  | .inf _, .inf _ => qnan f
  | .inf sa, .fin sb _ _ => infNum f (sa ^^ sb)
  | .fin sa _ _, .inf sb => zeroNum f (sa ^^ sb)
  | .fin sa ma ea, .fin sb mb eb =>
    if mb = 0 then if ma = 0 then qnan f else infNum f (sa ^^ sb)
    else roundNum f (sa ^^ sb) ma mb (ea - eb)

/-- The bits of an integer square root of `n`, from bit `b - 1` down, added to `r`. -/
def sqrtBits (n : Nat) : Nat → Nat → Nat
  | 0, r => r
  | b + 1, r => sqrtBits n b (if (r + 2 ^ b) * (r + 2 ^ b) ≤ n then r + 2 ^ b else r)

/-- The greatest integer whose square is at most `n`. -/
def isqrt (n : Nat) : Nat := sqrtBits n (Nat.log2 n / 2 + 1) 0

/-- `fsqrt(a)` (00_scope.md R13). The root is taken with more bits than a significand has, and one more bit says whether
anything was cut off, so that the one rounding that follows is that of the exact root. -/
def fsqrt (f : NumFmt) (a : Word) : Word :=
  match unpack f a with
  | .nan => qnan f
  | .inf neg => if neg then qnan f else infNum f false
  | .fin neg m e =>
    if m = 0 then zeroNum f neg
    else if neg then qnan f
    else
      let odd := (e % 2).toNat
      let t := fracBits f + 3
      let n := m * 2 ^ odd * 4 ^ t
      let r := isqrt n
      roundNum f false (2 * r + (if r * r = n then 0 else 1)) 1 ((e - odd) / 2 - t - 1)

/-- `num(n)`, the conversion of an integer, exact for n < 2^24 (00_scope.md R13). -/
def num (f : NumFmt) (n : Nat) : Word := roundNum f false n 1 0

/-- `fsum` (00_scope.md R14): the left fold of `fadd` from +0 in ascending order. -/
def fsum (f : NumFmt) : Nat → (Nat → Word) → Word
  | 0, _ => zeroNum f false
  | n + 1, t => fadd f (fsum f n t) (t n)

/-- `isFinite(v)` (00_scope.md R19). -/
def isFinite (f : NumFmt) (v : Word) : Bool :=
  match unpack f v with
  | .fin _ _ _ => true
  | .inf _ => false
  | .nan => false

/-- `floorIdx(v, L)` (00_scope.md R18). -/
def floorIdx (f : NumFmt) (v : Word) (l : Nat) : Nat :=
  match unpack f v with
  | .nan => 0
  | .inf neg => if neg then 0 else l
  | .fin neg m e => if neg then 0 else min (m * 2 ^ e.toNat / 2 ^ (-e).toNat) l

/-- A `Num` word with every NaN replaced by `QNAN` (00_scope.md R13). -/
def canonNum (f : NumFmt) (w : Word) : Word :=
  match unpack f w with
  | .nan => qnan f
  | _ => truncNum f w

/-- `ONE` = 1 (00_scope.md R17). -/
def numOne : NumFmt → Word
  | .binary32 => 0x3F800000
  | .binary64 => 0x3FF0000000000000

/-- `HALF` = 0.5 (00_scope.md R17). -/
def numHalf : NumFmt → Word
  | .binary32 => 0x3F000000
  | .binary64 => 0x3FE0000000000000

/-- `C20` = 20 (00_scope.md R17). -/
def num20 : NumFmt → Word
  | .binary32 => 0x41A00000
  | .binary64 => 0x4034000000000000

/-- `C700` = 700 (00_scope.md R17). -/
def num700 : NumFmt → Word
  | .binary32 => 0x442F0000
  | .binary64 => 0x4085E00000000000

/-- `K_MEL` = 1127.01048 (00_scope.md R17). -/
def numKMel : NumFmt → Word
  | .binary32 => 0x448CE056
  | .binary64 => 0x40919C0ABB44E50C

/-- 0.97, the reset value of CFG_ALPHA (00_scope.md R17, 10_state.md R44). -/
def num097 : NumFmt → Word
  | .binary32 => 0x3F7851EC
  | .binary64 => 0x3FEF0A3D70A3D70A

end Sys2Proof.Machine
end

