-- ==== Sys2Proof/Machine/Numf.lean ====
section
/-! DEFINITION. The transcendental primitives `NUMF` (00_scope.md R15) and their reference instantiation (R16). The
reference computes an enclosure of the exact value in fixed point (logs 4 and 18) and answers only where both ends of the
enclosure round to one `Num`; where they do not, or where R15 and R16 give no value, the answer is a free value. -/

namespace Sys2Proof.Machine

/-- Fractional bits of the fixed-point numbers of the reference primitives. -/
def refBits : Nat := 320

/-- π in fixed point, rounded down. PRESUMED (log 18): from general knowledge, checked by `test_pi_constant`. -/
def fixPi : Nat :=
  0x3243f6a8885a308d313198a2e03707344a4093822299f31d0082efa98ec4e6c89452821e638d01377

/-- ln 2 in fixed point, rounded down. PRESUMED (log 18): from general knowledge, checked by `test_ln2_constant`. -/
def fixLn2 : Nat :=
  0xb17217f7d1cf79abc9e3b39803f2f6af40f343267298b62d8a0d175b8baafa2be7b876206debac98

/-- ln 10 in fixed point, rounded down. PRESUMED (log 18): from general knowledge, checked by `test_ln10_constant`. -/
def fixLn10 : Nat :=
  0x24d763776aaa2b05ba95b58ae0b4c28a38a3fb3e76977e43a0f187a0807c0b5ca58bc0b5ec6a04173

/-- Half the width of every enclosure, in units of the last fixed-point bit (log 4). -/
def refSlack : Int := 2 ^ 24

/-- `t - t·y/(k(k+1)) + …`: an alternating series with y = x² in fixed point. -/
def altSeries (y : Nat) : Nat → Nat → Nat → Int
  | 0, _, _ => 0
  | fuel + 1, k, t => (t : Int) - altSeries y fuel (k + 2) (t * y / 2 ^ refBits / (k * (k + 1)))

/-- cos x in fixed point, for 0 ≤ x ≤ π/2. -/
def fixCos (x : Nat) : Int := altSeries (x * x / 2 ^ refBits) 44 1 (2 ^ refBits)

/-- sin x in fixed point, for 0 ≤ x ≤ π/2. -/
def fixSin (x : Nat) : Int := altSeries (x * x / 2 ^ refBits) 44 2 x

/-- `t + t·x/k + t·x²/(k(k+1)) + …` in fixed point. -/
def expSeries (x : Nat) : Nat → Nat → Nat → Nat
  | 0, _, _ => 0
  | fuel + 1, k, t => t + expSeries x fuel (k + 1) (t * x / 2 ^ refBits / k)

/-- `t/k + t·y/(k+2) + …` in fixed point: the series of the inverse hyperbolic tangent. -/
def atanhSeries (y : Nat) : Nat → Nat → Nat → Nat
  | 0, _, _ => 0
  | fuel + 1, k, t => t / k + atanhSeries y fuel (k + 2) (t * y / 2 ^ refBits)

/-- The one `Num` that everything between `(v - refSlack)·2^e` and `(v + refSlack)·2^e` rounds to, if there is one. -/
def roundEnclosed (f : NumFmt) (v : Int) (e : Int) : Option Word :=
  let lo := roundInt f (v - refSlack) e
  if lo = roundInt f (v + refSlack) e then some lo else none

/-- cos (neg, at angle x) or sin, with a sign: what `cosT` and `sinT` are on one quadrant. An exact zero is +0 (R16). -/
def refQuadrant (f : NumFmt) (sine neg : Bool) (x : Nat) : Option Word :=
  if sine ∧ x = 0 then some (zeroNum f false)
  else
    let v := if sine then fixSin x else fixCos x
    roundEnclosed f (if neg then -v else v) (-(refBits : Int))

/-- The angle `2π·j/d` less its whole quadrants, in fixed point: `(π/2)·(4j mod d)/d`. -/
def quadrantAngle (j d : Nat) : Nat := fixPi * (4 * j % d) / (2 * d)

/-- `cos(2π·j/d)`, correctly rounded (00_scope.md R16). -/
def refCos (f : NumFmt) (j d : Nat) : Option Word :=
  match 4 * j / d % 4 with
  | 0 => refQuadrant f false false (quadrantAngle j d)
  | 1 => refQuadrant f true true (quadrantAngle j d)
  | 2 => refQuadrant f false true (quadrantAngle j d)
  | _ => refQuadrant f true false (quadrantAngle j d)

/-- `sin(2π·j/d)`, correctly rounded (00_scope.md R16). -/
def refSin (f : NumFmt) (j d : Nat) : Option Word :=
  match 4 * j / d % 4 with
  | 0 => refQuadrant f true false (quadrantAngle j d)
  | 1 => refQuadrant f false false (quadrantAngle j d)
  | 2 => refQuadrant f true true (quadrantAngle j d)
  | _ => refQuadrant f false true (quadrantAngle j d)

/-- `ln(m·2^e)` in fixed point for positive m: `2·atanh((m' - 1)/(m' + 1))` of the significand m' in [1, 2), and ln 2 for
each power of two. -/
def fixLn (m : Nat) (e : Int) : Int :=
  let p := 2 ^ Nat.log2 m
  let z := (m - p) * 2 ^ refBits / (m + p)
  2 * (atanhSeries (z * z / 2 ^ refBits) 106 1 z : Int) + (e + Nat.log2 m) * fixLn2

/-- The natural logarithm of a positive finite number, correctly rounded (00_scope.md R16). -/
def refLn (f : NumFmt) (x : Word) : Option Word :=
  match unpack f x with
  | .fin neg m e =>
    if neg ∨ m = 0 then none else roundEnclosed f (fixLn m e) (-(refBits : Int))
  | .inf _ => none
  | .nan => none

/-- The base-10 logarithm of a positive finite number, correctly rounded (00_scope.md R16). -/
def refLog10 (f : NumFmt) (x : Word) : Option Word :=
  match unpack f x with
  | .fin neg m e =>
    if neg ∨ m = 0 then none
    else roundEnclosed f (fixLn m e * 2 ^ refBits / fixLn10) (-(refBits : Int))
  | .inf _ => none
  | .nan => none

/-- `e^x` of a finite number, correctly rounded (00_scope.md R16). Beyond ±4096 every format overflows or underflows. -/
def refExp (f : NumFmt) (x : Word) : Option Word :=
  match unpack f x with
  | .fin neg m e =>
    let a := m * 2 ^ (e + refBits).toNat / 2 ^ (-(e + refBits)).toNat
    if 4096 * 2 ^ refBits ≤ a then some (if neg then zeroNum f false else infNum f false)
    else
      let v : Int := signedMant neg a
      let k := v / (fixLn2 : Int)
      let r := (v - k * fixLn2).toNat
      roundEnclosed f (expSeries r 72 1 (2 ^ refBits)) (k - refBits)
  | .inf _ => none
  | .nan => none

/-- `cosT(j, d)` (00_scope.md R15): `cosT(0, d) = 1`. -/
def cosT (p : Params) (j d : Nat) : Word :=
  if j = 0 then numOne p.numFmt
  else
    canonNum p.numFmt
      (match p.numf with
      | .reference => (refCos p.numFmt j d).getD (Config.cosFree .reference p.numFmt j d)
      | .other k => Config.cosFree (.other k) p.numFmt j d)

/-- `sinT(j, d)` (00_scope.md R15): `sinT(0, d) = +0`. -/
def sinT (p : Params) (j d : Nat) : Word :=
  if j = 0 then zeroNum p.numFmt false
  else
    canonNum p.numFmt
      (match p.numf with
      | .reference => (refSin p.numFmt j d).getD (Config.sinFree .reference p.numFmt j d)
      | .other k => Config.sinFree (.other k) p.numFmt j d)

/-- `lnF(x)` (00_scope.md R15): `lnF(1) = +0`. -/
def lnF (p : Params) (x : Word) : Word :=
  if truncNum p.numFmt x = numOne p.numFmt then zeroNum p.numFmt false
  else
    canonNum p.numFmt
      (match p.numf with
      | .reference => (refLn p.numFmt x).getD (Config.lnFree .reference p.numFmt (truncNum p.numFmt x))
      | .other k => Config.lnFree (.other k) p.numFmt (truncNum p.numFmt x))

/-- `expF(x)` (00_scope.md R15): `expF(+0) = 1`. -/
def expF (p : Params) (x : Word) : Word :=
  if truncNum p.numFmt x = zeroNum p.numFmt false then numOne p.numFmt
  else
    canonNum p.numFmt
      (match p.numf with
      | .reference => (refExp p.numFmt x).getD (Config.expFree .reference p.numFmt (truncNum p.numFmt x))
      | .other k => Config.expFree (.other k) p.numFmt (truncNum p.numFmt x))

/-- `log10F(x)` of a positive finite number; `log10F(1) = +0` (00_scope.md R15). -/
def log10Pos (p : Params) (x : Word) : Word :=
  if truncNum p.numFmt x = numOne p.numFmt then zeroNum p.numFmt false
  else
    canonNum p.numFmt
      (match p.numf with
      | .reference =>
        (refLog10 p.numFmt x).getD (Config.log10Free .reference p.numFmt (truncNum p.numFmt x))
      | .other k => Config.log10Free (.other k) p.numFmt (truncNum p.numFmt x))

/-- `log10F(x)` (00_scope.md R15): `log10F(±0) = -∞`, negative numbers and NaN give QNAN, `log10F(+∞) = +∞`. -/
def log10F (p : Params) (x : Word) : Word :=
  match unpack p.numFmt x with
  | .nan => qnan p.numFmt
  | .inf neg => if neg then qnan p.numFmt else infNum p.numFmt false
  | .fin neg m _ =>
    if m = 0 then infNum p.numFmt true
    else if neg then qnan p.numFmt
    else log10Pos p x

end Sys2Proof.Machine
end

