-- ==== Sys2Proof/Machine/State.lean ====
section
/-! DEFINITION. The state of MFCC-CORE (10_state.md R60), its reset value (R61), and the reasons a step can stop. -/

namespace Sys2Proof.Machine

/-- STATUS (10_state.md R37). Its reserved bits read 0 and no write stores into them. -/
structure Status where
  /-- bit 0: a command is accepted and not complete (R38) -/
  busy : Bool
  /-- bit 1: the last command completed without error (R39) -/
  done : Bool
  /-- bit 2: a command completed with an error; the block is error-locked (R40) -/
  err : Bool
  /-- bit 3: a host write was discarded (R42) -/
  dropped : Bool
  /-- bit 4: the last LOG stage produced a non-finite value (R41) -/
  nf : Bool
  /-- bits 15:8: code of the first error since the last clear (R40) -/
  errcode : BitVec 8
  /-- bits 23:16: OP of the last command that completed (42_control.md R181) -/
  lastop : BitVec 8
deriving DecidableEq, Repr

/-- A descriptor (10_state.md R50). Its reserved bits are 0. -/
structure Desc where
  /-- bit 63: the buffer holds valid contents -/
  v : Bool
  /-- bits 47:32: FB_DESC only, the channel count the filter bank was built for -/
  ch : BitVec 16
  /-- bits 31:0: the length the producing command used -/
  len : BitVec 32
deriving DecidableEq, Repr

/-- The names of the eight descriptors (10_state.md R51 to R53). -/
inductive DescName where
  | hann
  | fb
  | pre
  | win
  | dft
  | amp
  | mel
  | log
deriving DecidableEq, Repr

/-- The buffers and tables (10_state.md R54, R55); `fbw c` is row c of the weight matrix. -/
inductive Buffer where
  | sin
  | pre
  | win
  | hann
  | re
  | im
  | amp
  | mel
  | logmel
  | fbIstart
  | fbIcenter
  | fbIend
  | fbw (c : Nat)
deriving DecidableEq, Repr

/-- The memory of all buffers and tables: the entries that hold a value, by word address, addresses strictly rising. An
entry that is not listed holds no value: it is unproduced (10_state.md R56), or in SIN unwritten (R57). -/
abbrev Mem := List (Nat × Word)

/-- A step of the host or of the reset pin (30_encoding.md R105, R106; 70_reset_and_hazards.md R230). -/
inductive HostOp where
  /-- `WR`: a WRITE transaction (20_memory.md R81) -/
  | write (a : Addr) (w : Word)
  /-- `RD`: a READ transaction (20_memory.md R80) -/
  | read (a : Addr)
  /-- `WAIT`: reads STATUS until BUSY is 0 (30_encoding.md R106) -/
  | wait
  /-- `rst_n` falls and rises between two transactions (70_reset_and_hazards.md R230) -/
  | resetPin
  /-- `rst_n` falls while a transaction is in flight, and rises (70_reset_and_hazards.md R230) -/
  | resetInFlight
deriving DecidableEq, Repr

/-- A response the host received (20_memory.md R70): `okay` is resp = OKAY. The rdata of an OKAY response to a WRITE is
not given by the spec and is `none` (log 9). -/
structure Reply where
  okay : Bool
  rdata : Option Word
deriving DecidableEq, Repr

/-- The state: everything of 10_state.md R60, the build parameters (log 2), and the model's own record of the host's
side and of the values left open (logs 6 to 9). -/
structure State where
  /-- the build parameters (00_scope.md R6); no step changes them -/
  params : Params
  /-- STATUS -/
  status : Status
  /-- CTRL.IRQ_EN (10_state.md R43) -/
  irqEn : Bool
  /-- ERR_INFO (10_state.md R49) -/
  errInfo : Word
  /-- CFG_N bits 31:0 (10_state.md R45) -/
  cfgN : BitVec 32
  /-- CFG_F bits 31:0 (10_state.md R46) -/
  cfgF : BitVec 32
  /-- CFG_C bits 31:0 (10_state.md R47) -/
  cfgC : BitVec 32
  /-- CFG_ALPHA (10_state.md R48) -/
  cfgAlpha : Word
  /-- HANN_DESC (10_state.md R51) -/
  hannDesc : Desc
  /-- FB_DESC (10_state.md R52) -/
  fbDesc : Desc
  /-- PRE_DESC (10_state.md R53) -/
  preDesc : Desc
  /-- WIN_DESC -/
  winDesc : Desc
  /-- DFT_DESC -/
  dftDesc : Desc
  /-- AMP_DESC -/
  ampDesc : Desc
  /-- MEL_DESC -/
  melDesc : Desc
  /-- LOG_DESC -/
  logDesc : Desc
  /-- PENDING (10_state.md R58) -/
  pending : Option Word
  /-- every buffer and table, with SIN_W as "is listed" (10_state.md R54 to R57) -/
  mem : Mem
  /-- what the host and the reset pin do next, first at the head (log 8) -/
  events : List HostOp
  /-- the responses the host has received, the last one at the head (log 9) -/
  replies : List Reply
  /-- host turns that come before the completion of each next accepted command (log 7) -/
  latency : List Nat
  /-- host turns left before the pending command's completion (log 7) -/
  delay : Nat
  /-- unspecified values drawn so far (log 6) -/
  draws : Nat
deriving DecidableEq, Repr

/-- Why the machine stops with a fault. The spec has no stop of its own: a failing command is a next state
(60_exceptions.md R205). -/
inductive Fault where
  /-- Raised by `step` alone, where BUSY = 1 and PENDING is empty. No run reaches such a state (10_state.md R58), and the
  invariant `State.commandInv` rules it out. Safe (log 12). -/
  | busyWithoutCommand
deriving DecidableEq, Repr

/-- Why an instruction is refused. -/
inductive Refusal where
  /-- Raised by an arm of `exec` for an instruction without a meaning: no arm does. Safe. -/
  | notModelled (mnemonic : String)
deriving DecidableEq, Repr

/-- STATUS after reset (10_state.md R61). -/
def Status.reset : Status := ⟨false, false, false, false, false, 0x00, 0x00⟩

/-- Every descriptor after reset (10_state.md R61). -/
def Desc.empty : Desc := ⟨false, 0, 0⟩

/-- The reset state of a build (10_state.md R61), with the model's own fields empty. -/
def State.resetOf (p : Params) : State where
  params := p
  status := Status.reset
  irqEn := false
  errInfo := 0
  cfgN := 1024
  cfgF := 44000
  cfgC := 20
  cfgAlpha := num097 p.numFmt
  hannDesc := Desc.empty
  fbDesc := Desc.empty
  preDesc := Desc.empty
  winDesc := Desc.empty
  dftDesc := Desc.empty
  ampDesc := Desc.empty
  melDesc := Desc.empty
  logDesc := Desc.empty
  pending := none
  mem := []
  events := []
  replies := []
  latency := []
  delay := 0
  draws := 0

/-- The machine right after reset, in the reference instantiation (00_scope.md R6, 10_state.md R61). -/
def State.reset : State := State.resetOf Params.reference

end Sys2Proof.Machine
end

