-- ==== Sys2Proof/Machine/Operands.lean ====
section
/-! DEFINITION. Where a command's operands come from (30_encoding.md R103): the configuration as numbers, the entries of
buffers and tables in the address map (20_memory.md R74, R75), descriptors, and the checks on them (60_exceptions.md
R202, R203). -/

namespace Sys2Proof.Machine

/-- N (10_state.md R45). -/
def State.n (s : State) : Nat := s.cfgN.toNat

/-- F (10_state.md R46). -/
def State.f (s : State) : Nat := s.cfgF.toNat

/-- C (10_state.md R47). -/
def State.c (s : State) : Nat := s.cfgC.toNat

/-- `NYQ = floor(F / 2)` (00_scope.md R8). -/
def State.nyq (s : State) : Nat := s.f / 2

/-- The bus region of a buffer or table (20_memory.md R75). -/
def Buffer.region : Buffer → Nat
  | .sin => 0x01
  | .pre => 0x02
  | .win => 0x03
  | .hann => 0x04
  | .re => 0x05
  | .im => 0x06
  | .amp => 0x07
  | .mel => 0x08
  | .logmel => 0x09
  | .fbIstart => 0x0A
  | .fbIcenter => 0x0B
  | .fbIend => 0x0C
  | .fbw c => 0x80 + c

/-- The word address of a region's entry 0: the region in bits 31:24 (20_memory.md R74). -/
def Buffer.base (b : Buffer) : Nat := b.region * 2 ^ 24

/-- The word address of an entry (20_memory.md R75). -/
def Buffer.addr (b : Buffer) (i : Nat) : Nat := b.base + i

/-- `NYQ_MAX = floor(F_MAX / 2)` (00_scope.md R6). -/
def nyqMax (p : Params) : Nat := p.fMax / 2

/-- How many entries a buffer or table has (20_memory.md R75). -/
def Buffer.capacity (p : Params) : Buffer → Nat
  | .sin | .pre | .win | .hann => p.nMax
  | .re | .im | .amp => p.fMax
  | .mel | .logmel | .fbIstart | .fbIcenter | .fbIend => p.cMax
  | .fbw c => if c < p.cMax then nyqMax p else 0

/-- The value of an entry by word address, if it holds one (10_state.md R56, R57). -/
def Mem.read : Mem → Nat → Option Word
  | [], _ => none
  | (k, w) :: t, a => if k = a then some w else Mem.read t a

/-- The value of entry i of a buffer, if it holds one. -/
def State.entry (s : State) (b : Buffer) (i : Nat) : Option Word := s.mem.read (b.addr i)

/-- SIN_W[i] (10_state.md R57). -/
def State.sinW (s : State) (i : Nat) : Bool := (s.entry .sin i).isSome

/-- What a command reads from an entry. An entry without a value gives a free value; no run reads one (10_state.md R56;
log 11). -/
def State.operand (s : State) (b : Buffer) (i : Nat) : Word :=
  (s.entry b i).getD (Config.freeOperand (b.addr i))

/-- The register number of a descriptor (10_state.md section 2). -/
def DescName.number : DescName → Nat
  | .hann => 0x20
  | .fb => 0x21
  | .pre => 0x22
  | .win => 0x23
  | .dft => 0x24
  | .amp => 0x25
  | .mel => 0x26
  | .log => 0x27

/-- A descriptor by name. -/
def State.desc (s : State) : DescName → Desc
  | .hann => s.hannDesc
  | .fb => s.fbDesc
  | .pre => s.preDesc
  | .win => s.winDesc
  | .dft => s.dftDesc
  | .amp => s.ampDesc
  | .mel => s.melDesc
  | .log => s.logDesc

/-- The descriptor a command writes for length L (10_state.md R51, R53). -/
def Desc.ofLen (l : Nat) : Desc := ⟨true, 0, BitVec.ofNat 32 l⟩

/-- The block error codes (60_exceptions.md R200). -/
inductive ErrCode where
  | illegalCmd
  | config
  | notReady
  | length
  | uninit
deriving DecidableEq, Repr

/-- The code as STATUS.ERRCODE holds it (60_exceptions.md R200). -/
def ErrCode.byte : ErrCode → BitVec 8
  | .illegalCmd => 0x01
  | .config => 0x02
  | .notReady => 0x03
  | .length => 0x04
  | .uninit => 0x05

/-- What `raise E_X(info)` carries (00_scope.md R10). -/
structure CmdError where
  code : ErrCode
  info : Word
deriving DecidableEq, Repr

/-- N below `lo` or above N_MAX raises E_CONFIG(0x10) (60_exceptions.md R202). -/
def State.checkN (s : State) (lo : Nat) : Option CmdError :=
  if s.n < lo ∨ s.params.nMax < s.n then some ⟨.config, 0x10⟩ else none

/-- F below `lo` or above F_MAX raises E_CONFIG(0x11) (60_exceptions.md R202). -/
def State.checkF (s : State) (lo : Nat) : Option CmdError :=
  if s.f < lo ∨ s.params.fMax < s.f then some ⟨.config, 0x11⟩ else none

/-- C = 0 or C above C_MAX raises E_CONFIG(0x12) (60_exceptions.md R202). -/
def State.checkC (s : State) : Option CmdError :=
  if s.c < 1 ∨ s.params.cMax < s.c then some ⟨.config, 0x12⟩ else none

/-- `need(D, L)` (60_exceptions.md R203). -/
def State.need (s : State) (d : DescName) (l : Nat) : Option CmdError :=
  if (s.desc d).v = false then some ⟨.notReady, BitVec.ofNat 64 d.number⟩
  else if (s.desc d).len.toNat ≠ l then some ⟨.length, BitVec.ofNat 64 d.number⟩
  else none

/-- `need_fb(L, C)` (60_exceptions.md R203). -/
def State.needFb (s : State) (l c : Nat) : Option CmdError :=
  if s.fbDesc.v = false then some ⟨.notReady, 0x21⟩
  else if s.fbDesc.len.toNat ≠ l ∨ s.fbDesc.ch.toNat ≠ c then some ⟨.length, 0x21⟩
  else none

/-- The lowest i < N with SIN_W[i] = 0 raises E_UNINIT(i) (60_exceptions.md R200, R201). -/
def State.checkSin (s : State) : Option CmdError :=
  ((List.range s.n).find? (fun i => !s.sinW i)).map (fun i => ⟨.uninit, BitVec.ofNat 64 i⟩)

end Sys2Proof.Machine
end

