-- ==== Sys2Proof/Machine/Flags.lean ====
section
/-! DEFINITION. STATUS and CTRL as words, the NF flag, and the interrupt output (10_state.md R37, R41, R43;
60_exceptions.md R210). -/

namespace Sys2Proof.Machine

/-- A flag as a word with that one bit. -/
def bitAt (b : Bool) (k : Nat) : Word := if b then 1#64 <<< k else 0

/-- STATUS as the host reads it (10_state.md R37). -/
def Status.word (t : Status) : Word :=
  bitAt t.busy 0 ||| bitAt t.done 1 ||| bitAt t.err 2 ||| bitAt t.dropped 3 ||| bitAt t.nf 4 |||
  t.errcode.setWidth 64 <<< 8 ||| t.lastop.setWidth 64 <<< 16

/-- A descriptor as the host reads it (10_state.md R50). -/
def Desc.word (d : Desc) : Word :=
  bitAt d.v 63 ||| d.ch.setWidth 64 <<< 32 ||| d.len.setWidth 64

/-- NF: whether some of the C values that a LOG stage writes is not finite (10_state.md R41). -/
def nonFinite (f : NumFmt) (c : Nat) (v : Nat → Word) : Bool :=
  (List.range c).any (fun i => !isFinite f (v i))

/-- The interrupt output (60_exceptions.md R210). -/
def State.irq (s : State) : Bool := s.irqEn && (s.status.done || s.status.err)

end Sys2Proof.Machine
end

