-- ==== Sys2Proof/Machine/Ops.lean ====
section
/-! DEFINITION. The operations every meaning is made of: writing entries, completing a command with or without an error
(42_control.md R181, 60_exceptions.md R205), the return from an error (42_control.md R184), and reset (10_state.md
R61). -/

namespace Sys2Proof.Machine

/-- The memory's canonical form: addresses strictly rising, so each is listed once. An unlisted entry holds no value, so
no listed value can equal it. -/
def Mem.wf (m : Mem) : Bool :=
  match m with
  | [] => true
  | (k, _) :: t =>
    (match t with
    | [] => true
    | (k', _) :: _ => decide (k < k')) && Mem.wf t

/-- Writes the n entries from word address `base` on: entry i gets `v i`. -/
def Mem.fill (m : Mem) (base n : Nat) (v : Nat → Word) : Mem :=
  m.filter (fun x => decide (x.1 < base)) ++ (List.range n).map (fun i => (base + i, v i)) ++
  m.filter (fun x => decide (base + n ≤ x.1))

/-- Writes one entry. -/
def Mem.write (m : Mem) (a : Nat) (w : Word) : Mem := m.fill a 1 (fun _ => w)

/-- Writes rows 0 to c - 1 of the weight matrix, n entries each. -/
def Mem.fillRows (m : Mem) (n : Nat) (v : Nat → Nat → Word) : Nat → Mem
  | 0 => m
  | c + 1 => (Mem.fillRows m n v c).fill (Buffer.fbw c).base n (v c)

/-- Writes entries 0 to n - 1 of a buffer. -/
def State.fillBuffer (s : State) (b : Buffer) (n : Nat) (v : Nat → Word) : State :=
  { s with mem := s.mem.fill b.base n v }

/-- Error-free completion (42_control.md R181): DONE is set, LASTOP gets OP, BUSY and PENDING are cleared. -/
def State.finish (op : BitVec 8) (s : State) : State :=
  { s with
    status := { s.status with done := true, lastop := op, busy := false }
    pending := none }

/-- Error entry (60_exceptions.md R205): the first error is recorded, nothing else is written but LASTOP, BUSY and
PENDING. -/
def State.errorEntry (op : BitVec 8) (e : CmdError) (s : State) : State :=
  { s with
    status :=
      { s.status with
        err := true
        errcode := if s.status.err then s.status.errcode else e.code.byte
        lastop := op
        busy := false }
    errInfo := if s.status.err then s.errInfo else e.info
    pending := none }

/-- The return from an error (42_control.md R184): ERR, ERRCODE, DROPPED and ERR_INFO are cleared. -/
def State.clearError (s : State) : State :=
  { s with
    status := { s.status with err := false, errcode := 0x00, dropped := false }
    errInfo := 0 }

/-- The reset state of this build (10_state.md R61), with what belongs to the host and to the values left open kept
(log 15). -/
def State.toReset (s : State) : State :=
  { State.resetOf s.params with
    events := s.events
    replies := s.replies
    latency := s.latency
    draws := s.draws }

/-- Completion of a command (42_control.md R181): the first error that applies, or every write of the command's
pseudocode. -/
def State.complete (op : BitVec 8) (check : Option CmdError) (body : State → State) (s : State) :
    Host.Outcome State Fault Refusal :=
  match check with
  | some e => .next (s.errorEntry op e)
  | none => .next ((body s).finish op)

end Sys2Proof.Machine
end

