-- ==== Sys2Proof/Machine/Bus.lean ====
section
/-! DEFINITION. The host bus: the address map (20_memory.md R74 to R78), READ and WRITE transactions (R80, R81), the
acceptance of a command (42_control.md R180), the write sets (R182), and the pseudo-instructions of a host program
(30_encoding.md R105, R106). -/

namespace Sys2Proof.Machine

/-- The registers (10_state.md section 2). -/
inductive Reg where
  | id
  | version
  | capN
  | capF
  | capC
  | capFmt
  | cmd
  | status
  | ctrl
  | errInfo
  | cfgN
  | cfgF
  | cfgC
  | cfgAlpha
  | desc (d : DescName)
deriving DecidableEq, Repr

/-- A register's number (10_state.md section 2). -/
def Reg.number : Reg → Nat
  | .id => 0x00
  | .version => 0x01
  | .capN => 0x02
  | .capF => 0x03
  | .capC => 0x04
  | .capFmt => 0x05
  | .cmd => 0x08
  | .status => 0x09
  | .ctrl => 0x0A
  | .errInfo => 0x0B
  | .cfgN => 0x10
  | .cfgF => 0x11
  | .cfgC => 0x12
  | .cfgAlpha => 0x13
  | .desc d => d.number

/-- Every register. -/
def Reg.all : List Reg :=
  [.id, .version, .capN, .capF, .capC, .capFmt, .cmd, .status, .ctrl, .errInfo, .cfgN, .cfgF, .cfgC, .cfgAlpha,
   .desc .hann, .desc .fb, .desc .pre, .desc .win, .desc .dft, .desc .amp, .desc .mel, .desc .log]

/-- The register of a number; a number that is not listed is reserved (10_state.md section 2). -/
def Reg.ofNumber (k : Nat) : Option Reg := Reg.all.find? (fun r => r.number == k)

/-- The buffer or table of a bus region (20_memory.md R75). -/
def Buffer.ofRegion (r : Nat) : Option Buffer :=
  match r with
  | 0x01 => some .sin
  | 0x02 => some .pre
  | 0x03 => some .win
  | 0x04 => some .hann
  | 0x05 => some .re
  | 0x06 => some .im
  | 0x07 => some .amp
  | 0x08 => some .mel
  | 0x09 => some .logmel
  | 0x0A => some .fbIstart
  | 0x0B => some .fbIcenter
  | 0x0C => some .fbIend
  | _ => if 0x80 ≤ r then some (.fbw (r - 0x80)) else none

/-- What a bus address selects. -/
inductive Loc where
  | reg (r : Reg)
  | entry (b : Buffer) (i : Nat)
deriving DecidableEq, Repr

/-- Bits 31:24 of an address (20_memory.md R74). -/
def Addr.region (a : Addr) : Nat := a.toNat / 2 ^ 24

/-- Bits 23:0 of an address (20_memory.md R74). -/
def Addr.offset (a : Addr) : Nat := a.toNat % 2 ^ 24

/-- What an address selects, if anything (20_memory.md R75, R77). -/
def select (p : Params) (a : Addr) : Option Loc :=
  if Addr.region a = 0 then (Reg.ofNumber (Addr.offset a)).map .reg
  else
    match Buffer.ofRegion (Addr.region a) with
    | some b => if Addr.offset a < b.capacity p then some (.entry b (Addr.offset a)) else none
    | none => none

/-- The value of a register for a host read (10_state.md R33 to R53). CMD reads 0 (R36). -/
def State.regWord (s : State) : Reg → Word
  | .id => 0x4D464343434F5245
  | .version => 0x0000000000010007
  | .capN => BitVec.ofNat 64 s.params.nMax
  | .capF => BitVec.ofNat 64 s.params.fMax
  | .capC => BitVec.ofNat 64 s.params.cMax
  | .capFmt =>
    match s.params.numFmt with
    | .binary32 => 0
    | .binary64 => 1
  | .cmd => 0
  | .status => s.status.word
  | .ctrl => bitAt s.irqEn 0
  | .errInfo => s.errInfo
  | .cfgN => s.cfgN.setWidth 64
  | .cfgF => s.cfgF.setWidth 64
  | .cfgC => s.cfgC.setWidth 64
  | .cfgAlpha => s.cfgAlpha
  | .desc d => (s.desc d).word

/-- Whether an entry is within its buffer's current descriptor (10_state.md R50, R56). SIN has no descriptor. -/
def State.withinDesc (s : State) (b : Buffer) (i : Nat) : Bool :=
  match b with
  | .sin => true
  | .pre => s.preDesc.v && decide (i < s.preDesc.len.toNat)
  | .win => s.winDesc.v && decide (i < s.winDesc.len.toNat)
  | .hann => s.hannDesc.v && decide (i < s.hannDesc.len.toNat)
  | .re | .im => s.dftDesc.v && decide (i < s.dftDesc.len.toNat)
  | .amp => s.ampDesc.v && decide (i < s.ampDesc.len.toNat)
  | .mel => s.melDesc.v && decide (i < s.melDesc.len.toNat)
  | .logmel => s.logDesc.v && decide (i < s.logDesc.len.toNat)
  | .fbIstart | .fbIcenter | .fbIend => s.fbDesc.v && decide (i < s.fbDesc.ch.toNat)
  | .fbw c => s.fbDesc.v && decide (c < s.fbDesc.ch.toNat) && decide (i < s.fbDesc.len.toNat)

/-- Whether entry i of a buffer is in the write set of the command i writes (42_control.md R182), by command. -/
def State.commandWrites (s : State) (cmd : Instr) (b : Buffer) (i : Nat) : Bool :=
  match cmd with
  | .nop | .clearStatus => false
  | .softReset => true
  | .buildHann => b == .hann && decide (i < s.n)
  | .buildFb =>
    match b with
    | .fbIstart | .fbIcenter | .fbIend => decide (i < s.c)
    | .fbw c => decide (c < s.c) && decide (i < s.nyq)
    | _ => false
  | .preemph => b == .pre && decide (i < s.n)
  | .window => b == .win && decide (i < s.n)
  | .dft => (b == .re || b == .im) && decide (i < s.f)
  | .mag => b == .amp && decide (i < s.f)
  | .melfb => b == .mel && decide (i < s.c)
  | .log => b == .logmel && decide (i < s.c)
  | .run =>
    match b with
    | .sin => false
    | .hann | .pre | .win => decide (i < s.n)
    | .re | .im | .amp => decide (i < s.f)
    | .mel | .logmel | .fbIstart | .fbIcenter | .fbIend => decide (i < s.c)
    | .fbw c => decide (c < s.c) && decide (i < s.nyq)

/-- Whether an entry is in the pending command's write set (42_control.md R182): SOFT_RESET and illegal words have every
entry of every buffer and table, SIN's too (log 13). -/
def State.inWriteSet (s : State) (b : Buffer) (i : Nat) : Bool :=
  match s.status.busy, s.pending with
  | true, some w =>
    match decodeWord w with
    | .ok cmd => s.commandWrites cmd b i
    | .error _ => true
  | true, none => false
  | false, _ => false

/-- What a READ of a selected location gives; `none` is UNSPECIFIED (20_memory.md R80, R85). -/
def State.readLoc (s : State) : Loc → Option Word
  | .reg r => some (s.regWord r)
  | .entry b i => if s.inWriteSet b i || !s.withinDesc b i then none else s.entry b i

/-- Adds a response to what the host has received. -/
def State.reply (s : State) (r : Reply) : State := { s with replies := r :: s.replies }

/-- An ERROR response to a READ or a WRITE: rdata 0, no other state changes (20_memory.md R78). -/
def State.busError (s : State) : State := s.reply ⟨false, some 0⟩

/-- A READ transaction (20_memory.md R80). An UNSPECIFIED word is a fresh free draw. -/
def State.hostRead (s : State) (a : Addr) : State :=
  match select s.params a with
  | none => s.busError
  | some l =>
    match s.readLoc l with
    | some w => s.reply ⟨true, some w⟩
    | none => { s.reply ⟨true, some (Config.freeWord s.draws)⟩ with draws := s.draws + 1 }

/-- A discarded write (10_state.md R42). -/
def State.drop (s : State) : State := { s with status := { s.status with dropped := true } }

/-- The delay of the command accepted now: the next one of `latency`, or a free draw (log 7). -/
def State.drawLatency (s : State) : State :=
  match s.latency with
  | d :: rest => { s with delay := d, latency := rest }
  | [] => { s with delay := Config.freeLatency s.draws, draws := s.draws + 1 }

/-- Acceptance: `MemWrite(CMD, w)` (42_control.md R180). -/
def State.accept (s : State) (w : Word) : State :=
  if s.status.busy then s.drop
  else if s.status.err ∧ w ≠ encode .softReset ∧ w ≠ encode .clearStatus then s.drop
  else
    { s.drawLatency with
      pending := some w
      status := { s.status with busy := true, done := false } }

/-- The writes that are dropped while a command is pending (20_memory.md R81, R84). -/
def State.writeIdle (s : State) (t : State) : State := if s.status.busy then s.drop else t

/-- The effect of a WRITE transaction on the block, or `none` for a bus error (20_memory.md R78, R81). -/
def State.writeLoc (s : State) (l : Loc) (w : Word) : Option State :=
  match l with
  | .reg .cmd => some (s.accept w)
  | .reg .status =>
    some (if w.getLsbD 1 then { s with status := { s.status with done := false } } else s)
  | .reg .ctrl => some { s with irqEn := w.getLsbD 0 }
  | .reg .cfgN => some (s.writeIdle { s with cfgN := w.setWidth 32 })
  | .reg .cfgF => some (s.writeIdle { s with cfgF := w.setWidth 32 })
  | .reg .cfgC => some (s.writeIdle { s with cfgC := w.setWidth 32 })
  | .reg .cfgAlpha => some (s.writeIdle { s with cfgAlpha := truncNum s.params.numFmt w })
  | .entry .sin i =>
    some (s.writeIdle { s with mem := s.mem.write (Buffer.sin.addr i) (truncNum s.params.numFmt w) })
  | .reg .id | .reg .version | .reg .capN | .reg .capF | .reg .capC | .reg .capFmt
  | .reg .errInfo | .reg (.desc _) => none
  | .entry .pre _ | .entry .win _ | .entry .hann _ | .entry .re _ | .entry .im _ | .entry .amp _
  | .entry .mel _ | .entry .logmel _ | .entry .fbIstart _ | .entry .fbIcenter _ | .entry .fbIend _
  | .entry (.fbw _) _ => none

/-- A WRITE transaction (20_memory.md R81). -/
def State.hostWrite (s : State) (a : Addr) (w : Word) : State :=
  match (select s.params a).bind (fun l => s.writeLoc l w) with
  | some t => t.reply ⟨true, none⟩
  | none => s.busError

/-- The address of a register (20_memory.md R74). -/
def regAddr (r : Reg) : Addr := BitVec.ofNat 32 r.number

/-- The bus address of an entry (20_memory.md R75). -/
def entryAddr (b : Buffer) (i : Nat) : Addr := BitVec.ofNat 32 (b.addr i)

/-- Hardware reset (70_reset_and_hazards.md R230). -/
def State.resetPin (s : State) : State := s.toReset

/-- Hardware reset with a transaction in flight: its response is unspecified, and its write, if any, is overridden
(70_reset_and_hazards.md R230; 93_implementation_defined.md I11). -/
def State.resetInFlight (s : State) : State :=
  { s.toReset.reply ⟨Config.freeOkay s.draws, some (Config.freeWord s.draws)⟩ with draws := s.draws + 1 }

/-- One step of the host or of the reset pin; `e` has been taken off the events. A `WAIT` that finds BUSY set comes back
(30_encoding.md R106). -/
def State.perform (s : State) (e : HostOp) : State :=
  match e with
  | .write a w => s.hostWrite a w
  | .read a => s.hostRead a
  | .wait =>
    let t := s.hostRead (regAddr .status)
    if s.status.busy then { t with events := .wait :: s.events } else t
  | .resetPin => s.resetPin
  | .resetInFlight => s.resetInFlight

/-- The host's turn: the next event, or nothing (42_control.md R189). -/
def State.hostTurn (s : State) : State :=
  match s.events with
  | [] => s
  | e :: rest => ({ s with events := rest }).perform e

/-- `<MNEMONIC>` (30_encoding.md R106). -/
def HostOp.command (i : Instr) : HostOp := .write (regAddr .cmd) (encode i)

/-- `ACK` (30_encoding.md R106). -/
def HostOp.ack : HostOp := .write (regAddr .status) 0x2

/-- `LOAD SIN, x0, x1, …` (30_encoding.md R106). -/
def HostOp.loadSin (xs : List Word) : List HostOp :=
  xs.zipIdx.map (fun x => .write (entryAddr .sin x.2) x.1)

/-- What `CHECK` asks of the STATUS word it reads: neither ERR nor DROPPED (30_encoding.md R106). What follows a `CHECK` that
fails, R106 leaves open. DESIGN CHOICE (log 19): `CHECK` is no event of its own but a READ of STATUS, and the events after
it are taken whatever the word read. -/
def checkPasses (status : Word) : Bool := !status.getLsbD 2 && !status.getLsbD 3

end Sys2Proof.Machine
end

