-- ==== Sys2Proof/Machine/Stages.lean ====
section
/-! DEFINITION. The stage commands PREEMPH, WINDOW, DFT, MAG, MELFB and LOG (41_stages.md). Every operand is read from the
state before the command, and every entry in [0, L) is written (R175). -/

namespace Sys2Proof.Machine

/-- PRE[i] from the samples x (41_stages.md R140). PRE[0] is a copy of the bit pattern. -/
def preemphValue (f : NumFmt) (a : Word) (x : Nat → Word) (i : Nat) : Word :=
  if i = 0 then x 0 else fsub f (x i) (fmul f a (x (i - 1)))

/-- What PREEMPH writes (41_stages.md R140). -/
def State.writePreemph (s : State) : State :=
  { s.fillBuffer .pre s.n (preemphValue s.params.numFmt s.cfgAlpha (s.operand .sin)) with
    preDesc := Desc.ofLen s.n }

/-- What WINDOW writes (41_stages.md R145). -/
def State.writeWindow (s : State) : State :=
  { s.fillBuffer .win s.n (fun i => fmul s.params.numFmt (s.operand .pre i) (s.operand .hann i)) with
    winDesc := Desc.ofLen s.n }

/-- RE[i] of the samples x (41_stages.md R150). -/
def dftRe (p : Params) (n f : Nat) (x : Nat → Word) (i : Nat) : Word :=
  fsum p.numFmt n (fun k => fmul p.numFmt (x k) (cosT p (k * i % f) f))

/-- IM[i] of the samples x (41_stages.md R150). -/
def dftIm (p : Params) (n f : Nat) (x : Nat → Word) (i : Nat) : Word :=
  fsum p.numFmt n (fun k => fmul p.numFmt (fneg p.numFmt (x k)) (sinT p (k * i % f) f))

/-- What DFT writes (41_stages.md R150). -/
def State.writeDft (s : State) : State :=
  let s1 := s.fillBuffer .re s.f (dftRe s.params s.n s.f (s.operand .win))
  { s1.fillBuffer .im s.f (dftIm s.params s.n s.f (s.operand .win)) with
    dftDesc := Desc.ofLen s.f }

/-- The magnitude of one bin (41_stages.md R155). -/
def magValue (f : NumFmt) (re im : Word) : Word :=
  fsqrt f (fadd f (fmul f re re) (fmul f im im))

/-- What MAG writes (41_stages.md R155). -/
def State.writeMag (s : State) : State :=
  { s.fillBuffer .amp s.f (fun i => magValue s.params.numFmt (s.operand .re i) (s.operand .im i)) with
    ampDesc := Desc.ofLen s.f }

/-- The energy of channel k (41_stages.md R160). -/
def State.melValue (s : State) (k : Nat) : Word :=
  fsum s.params.numFmt s.nyq
    (fun i => fmul s.params.numFmt (s.operand .amp i) (s.operand (.fbw k) i))

/-- What MELFB writes (41_stages.md R160). -/
def State.writeMelfb (s : State) : State :=
  { s.fillBuffer .mel s.c s.melValue with melDesc := Desc.ofLen s.c }

/-- LOGMEL of one energy (41_stages.md R170). -/
def logValue (p : Params) (x : Word) : Word :=
  fmul p.numFmt (num20 p.numFmt) (log10F p x)

/-- What LOG writes (41_stages.md R170). -/
def State.writeLog (s : State) : State :=
  { s.fillBuffer .logmel s.c (fun k => logValue s.params (s.operand .mel k)) with
    logDesc := Desc.ofLen s.c
    status :=
      { s.status with
        nf := nonFinite s.params.numFmt s.c (fun k => logValue s.params (s.operand .mel k)) } }

/-- The checks of PREEMPH, in order (41_stages.md R140). -/
def State.checkPreemph (s : State) : Option CmdError := (s.checkN 0).or s.checkSin

/-- The checks of WINDOW, in order (41_stages.md R145). -/
def State.checkWindow (s : State) : Option CmdError :=
  (s.checkN 2).or ((s.need .pre s.n).or (s.need .hann s.n))

/-- The checks of DFT, in order (41_stages.md R150). -/
def State.checkDft (s : State) : Option CmdError := (s.checkF 1).or (s.need .win s.n)

/-- The checks of MAG, in order (41_stages.md R155). -/
def State.checkMag (s : State) : Option CmdError := (s.checkF 1).or (s.need .dft s.f)

/-- The checks of MELFB, in order (41_stages.md R160). -/
def State.checkMelfb (s : State) : Option CmdError :=
  (s.checkF 2).or (s.checkC.or ((s.need .amp s.f).or (s.needFb s.nyq s.c)))

/-- The checks of LOG, in order (41_stages.md R170). -/
def State.checkLog (s : State) : Option CmdError := s.checkC.or (s.need .mel s.c)

/-- PREEMPH (41_stages.md R140). -/
def execPreemph (s : State) : Host.Outcome State Fault Refusal :=
  s.complete (Instr.op .preemph) s.checkPreemph State.writePreemph

/-- WINDOW (41_stages.md R145). -/
def execWindow (s : State) : Host.Outcome State Fault Refusal :=
  s.complete (Instr.op .window) s.checkWindow State.writeWindow

/-- DFT (41_stages.md R150). -/
def execDft (s : State) : Host.Outcome State Fault Refusal :=
  s.complete (Instr.op .dft) s.checkDft State.writeDft

/-- MAG (41_stages.md R155). -/
def execMag (s : State) : Host.Outcome State Fault Refusal :=
  s.complete (Instr.op .mag) s.checkMag State.writeMag

/-- MELFB (41_stages.md R160). -/
def execMelfb (s : State) : Host.Outcome State Fault Refusal :=
  s.complete (Instr.op .melfb) s.checkMelfb State.writeMelfb

/-- LOG (41_stages.md R170). -/
def execLog (s : State) : Host.Outcome State Fault Refusal :=
  s.complete (Instr.op .log) s.checkLog State.writeLog

end Sys2Proof.Machine
end

