-- ==== Sys2Proof/Machine/Tables.lean ====
section
/-! DEFINITION. The mel converter (40_tables.md R120, R121) and the table-building commands BUILD_HANN (R123) and BUILD_FB
(R125, R126). -/

namespace Sys2Proof.Machine

/-- `hz_to_mel(f)` (40_tables.md R120). -/
def hzToMel (p : Params) (x : Word) : Word :=
  fmul p.numFmt (numKMel p.numFmt)
    (lnF p (fadd p.numFmt (fdiv p.numFmt x (num700 p.numFmt)) (numOne p.numFmt)))

/-- `mel_to_hz(m)` (40_tables.md R121). -/
def melToHz (p : Params) (m : Word) : Word :=
  fmul p.numFmt (num700 p.numFmt)
    (fsub p.numFmt (expF p (fdiv p.numFmt m (numKMel p.numFmt))) (numOne p.numFmt))

/-- HANN[i] for frame size n (40_tables.md R123). -/
def hannValue (p : Params) (n i : Nat) : Word :=
  fsub p.numFmt (numHalf p.numFmt)
    (fmul p.numFmt (numHalf p.numFmt) (cosT p (i % (n - 1)) (n - 1)))

/-- What BUILD_HANN writes (40_tables.md R123). -/
def State.writeHann (s : State) : State :=
  { s.fillBuffer .hann s.n (hannValue s.params s.n) with hannDesc := Desc.ofLen s.n }

/-- `dmel`, the mel spacing of the centres (40_tables.md R126); NYQ is used directly as a frequency (R130). -/
def melStep (p : Params) (nyq c : Nat) : Word :=
  fdiv p.numFmt (hzToMel p (num p.numFmt nyq)) (num p.numFmt (c + 1))

/-- `i_center[k]` of a filter bank of c channels (40_tables.md R126). -/
def iCenter (p : Params) (nyq c k : Nat) : Nat :=
  floorIdx p.numFmt (melToHz p (fmul p.numFmt (num p.numFmt (k + 1)) (melStep p nyq c))) nyq

/-- `i_start[k]` (40_tables.md R126). -/
def iStart (p : Params) (nyq c k : Nat) : Nat :=
  if 0 < k then iCenter p nyq c (k - 1) else 0

/-- `i_end[k]` (40_tables.md R126). -/
def iEnd (p : Params) (nyq c k : Nat) : Nat :=
  if k + 1 < c then iCenter p nyq c (k + 1) else nyq

/-- The filter weight `W(s, m, e, i)` (40_tables.md R125). -/
def weight (f : NumFmt) (s m e i : Nat) : Word :=
  if i = m then numOne f
  else if s ≤ i ∧ i < m then fdiv f (num f (i - s)) (num f (m - s))
  else if m < i ∧ i < e then fdiv f (num f (e - i)) (num f (e - m))
  else zeroNum f false

/-- FBW[k][i] of a filter bank of c channels (40_tables.md R126). -/
def weightOf (p : Params) (nyq c k i : Nat) : Word :=
  weight p.numFmt (iStart p nyq c k) (iCenter p nyq c k) (iEnd p nyq c k) i

/-- What BUILD_FB writes (40_tables.md R126). -/
def State.writeFb (s : State) : State :=
  let s1 := s.fillBuffer .fbIstart s.c (fun k => BitVec.ofNat 64 (iStart s.params s.nyq s.c k))
  let s2 := s1.fillBuffer .fbIcenter s.c (fun k => BitVec.ofNat 64 (iCenter s.params s.nyq s.c k))
  let s3 := s2.fillBuffer .fbIend s.c (fun k => BitVec.ofNat 64 (iEnd s.params s.nyq s.c k))
  { s3 with
    mem := s3.mem.fillRows s.nyq (weightOf s.params s.nyq s.c) s.c
    fbDesc := ⟨true, BitVec.ofNat 16 s.c, BitVec.ofNat 32 s.nyq⟩ }

/-- The checks of BUILD_HANN (40_tables.md R123). -/
def State.checkHann (s : State) : Option CmdError := s.checkN 2

/-- The checks of BUILD_FB, in order (40_tables.md R126). -/
def State.checkFb (s : State) : Option CmdError := (s.checkF 2).or s.checkC

/-- BUILD_HANN (40_tables.md R123). -/
def execBuildHann (s : State) : Host.Outcome State Fault Refusal :=
  s.complete (Instr.op .buildHann) s.checkHann State.writeHann

/-- BUILD_FB (40_tables.md R126). -/
def execBuildFb (s : State) : Host.Outcome State Fault Refusal :=
  s.complete (Instr.op .buildFb) s.checkFb State.writeFb

end Sys2Proof.Machine
end

