-- ==== Sys2Proof/Machine/Control.lean ====
section
/-! DEFINITION. The control commands NOP, CLEAR_STATUS, SOFT_RESET and the whole chain RUN (42_control.md R183 to
R187). -/

namespace Sys2Proof.Machine

/-- The checks of RUN, in order (42_control.md R187). -/
def State.checkRun (s : State) : Option CmdError :=
  (s.checkN 2).or ((s.checkF 2).or (s.checkC.or s.checkSin))

/-- What RUN writes: the bodies of the eight commands in order, each stage reading what the stages before it produced
(42_control.md R187). -/
def State.writeRun (s : State) : State :=
  s.writeHann.writeFb.writePreemph.writeWindow.writeDft.writeMag.writeMelfb.writeLog

/-- NOP (42_control.md R183). -/
def execNop (s : State) : Host.Outcome State Fault Refusal :=
  s.complete (Instr.op .nop) none id

/-- CLEAR_STATUS, the return from an error (42_control.md R184). -/
def execClearStatus (s : State) : Host.Outcome State Fault Refusal :=
  s.complete (Instr.op .clearStatus) none State.clearError

/-- SOFT_RESET (42_control.md R185): every piece of state takes its reset value, LASTOP and DONE too. -/
def execSoftReset (s : State) : Host.Outcome State Fault Refusal :=
  .next s.toReset

/-- RUN (42_control.md R187). -/
def execRun (s : State) : Host.Outcome State Fault Refusal :=
  s.complete (Instr.op .run) s.checkRun State.writeRun

end Sys2Proof.Machine
end

