-- ==== Sys2Proof/Machine/Dispatch.lean ====
section
/-! DEFINITION. What each command does at its completion: one arm per constructor of Instr. -/

namespace Sys2Proof.Machine

def exec (i : Instr) (s : State) : Host.Outcome State Fault Refusal :=
  match i with
  | .nop => Sys2Proof.Machine.execNop s
  | .buildHann => Sys2Proof.Machine.execBuildHann s
  | .buildFb => Sys2Proof.Machine.execBuildFb s
  | .softReset => Sys2Proof.Machine.execSoftReset s
  | .clearStatus => Sys2Proof.Machine.execClearStatus s
  | .preemph => Sys2Proof.Machine.execPreemph s
  | .window => Sys2Proof.Machine.execWindow s
  | .dft => Sys2Proof.Machine.execDft s
  | .mag => Sys2Proof.Machine.execMag s
  | .melfb => Sys2Proof.Machine.execMelfb s
  | .log => Sys2Proof.Machine.execLog s
  | .run => Sys2Proof.Machine.execRun s

end Sys2Proof.Machine
end

