-- ==== Sys2Proof/Machine/Engine.lean ====
section
/-! DEFINITION. The engine's completion of the pending command (42_control.md R181), and how engine and host take turns
(20_memory.md R86, 42_control.md R186). -/

namespace Sys2Proof.Machine

/-- The engine's step: completion of the pending command (42_control.md R181). A word that is no command completes with
E_ILLEGAL_CMD and the whole word (30_encoding.md R102). -/
def engineStep (s : State) : Host.Outcome State Fault Refusal :=
  match s.pending with
  | none => .fault .busyWithoutCommand
  | some w =>
    match decodeWord w with
    | .ok i => exec i s
    | .error _ => .next (s.errorEntry (Word.op w) ⟨.illegalCmd, w⟩)

/-- The next step of the block's history (20_memory.md R86). While a command is pending, `delay` host turns come before
its completion (42_control.md R186; log 7). -/
def State.advance (s : State) : Host.Outcome State Fault Refusal :=
  if s.status.busy then
    match s.delay with
    | 0 => engineStep s
    | d + 1 => .next ({ s with delay := d }).hostTurn
  else .next s.hostTurn

/-- The state in which a word has just been accepted (42_control.md R180) and completes in the very next step (log 8). -/
def State.acceptedNow (s : State) (w : Word) : State :=
  { s with
    pending := some w
    delay := 0
    status := { s.status with busy := true, done := false } }

end Sys2Proof.Machine
end

