-- ==== Sys2Proof/Machine/Step.lean ====
section
/-! DEFINITION. One step, and the state from which the next step runs a given command word. -/

namespace Sys2Proof.Machine

/-- One step: the completion of the pending command, or one host turn. -/
def step (s : State) : Host.Outcome State Fault Refusal := s.advance

/-- The state in which a table row's word has just been accepted and completes in the very next step (log 8). -/
def State.withFetchWord (s : State) (nbits w : Nat) : State := s.acceptedNow (tableWord nbits w)

end Sys2Proof.Machine
end

