-- ==== Sys2Proof/Safety.lean ====
section
/-! DEFINITION. What a state of a run looks like: the invariants that the spec's rules promise, each a conjunction of plain
facts about one state. `State.reset` has them and every step keeps them (stated as obligations). -/

namespace Sys2Proof.Machine

/-- A command is pending exactly while BUSY = 1 (10_state.md R38, R58), DONE is 0 then (R39), and under the error lock
only CLEAR_STATUS and SOFT_RESET can be pending (42_control.md R180). -/
def State.commandInv (s : State) : Prop :=
  s.status.busy = s.pending.isSome ∧
  (s.status.busy = true → s.status.done = false) ∧
  (s.status.busy = true → s.status.err = true →
    s.pending = some (encode .softReset) ∨ s.pending = some (encode .clearStatus))

/-- ERRCODE and ERR_INFO are 0 without an error, and ERRCODE is one of the five codes with one (10_state.md R40,
60_exceptions.md R200, R208). -/
def State.errorInv (s : State) : Prop :=
  (s.status.err = false → s.status.errcode = 0x00 ∧ s.errInfo = 0) ∧
  (s.status.err = true → s.status.errcode ∈ [0x01#8, 0x02#8, 0x03#8, 0x04#8, 0x05#8])

/-- The memory is in canonical form. -/
def State.memInv (s : State) : Prop := s.mem.wf = true

/-- Every entry that holds a value is an entry of the address map (20_memory.md R75). -/
def State.mapInv (s : State) : Prop :=
  ∀ a, (s.mem.read a).isSome = true → ∃ b i, a = Buffer.addr b i ∧ i < b.capacity s.params

/-- A descriptor other than FB_DESC is clear, or has CH = 0 and every entry of its buffer below LEN holds a value
(10_state.md R50, R56). -/
def State.descCovers (s : State) (d : DescName) (b : Buffer) : Prop :=
  (s.desc d).ch = 0 ∧
  ((s.desc d).v = false → (s.desc d).len = 0) ∧
  ∀ i, i < (s.desc d).len.toNat → (s.entry b i).isSome = true

/-- FB_DESC is clear, or the index tables hold values below CH and rows below CH hold values below LEN (10_state.md R50,
R52, R56). -/
def State.fbCovers (s : State) : Prop :=
  (s.fbDesc.v = false → s.fbDesc.len = 0 ∧ s.fbDesc.ch = 0) ∧
  (∀ k, k < s.fbDesc.ch.toNat →
    (s.entry .fbIstart k).isSome = true ∧ (s.entry .fbIcenter k).isSome = true ∧
    (s.entry .fbIend k).isSome = true) ∧
  (∀ k i, k < s.fbDesc.ch.toNat → i < s.fbDesc.len.toNat → (s.entry (.fbw k) i).isSome = true)

/-- Every descriptor covers what it describes; DFT_DESC describes RE and IM together (10_state.md R53). -/
def State.descInv (s : State) : Prop :=
  s.descCovers .hann .hann ∧ s.descCovers .pre .pre ∧ s.descCovers .win .win ∧
  s.descCovers .dft .re ∧ s.descCovers .dft .im ∧ s.descCovers .amp .amp ∧
  s.descCovers .mel .mel ∧ s.descCovers .log .logmel ∧ s.fbCovers

/-- Every word a `Num` location or an integer table holds has its upper half 0 with binary32 (20_memory.md R72). -/
def State.numInv (s : State) : Prop :=
  truncNum s.params.numFmt s.cfgAlpha = s.cfgAlpha ∧
  ∀ a w, s.mem.read a = some w → truncNum s.params.numFmt w = w

/-! What the statements about commands say of a state `s` before and a state `t` after. -/

/-- Word address a is one of the first n entries of a buffer. -/
def Buffer.covers (b : Buffer) (n a : Nat) : Prop := b.base ≤ a ∧ a < b.base + n

/-- Every address outside `written` reads as before. -/
def State.keepsMem (s t : State) (written : Nat → Prop) : Prop :=
  ∀ a, ¬ written a → t.mem.read a = s.mem.read a

/-- Every descriptor outside `ds` is as before. -/
def State.keepsDescs (s t : State) (ds : List DescName) : Prop :=
  ∀ d, d ∉ ds → t.desc d = s.desc d

/-- The build, CTRL and the configuration registers are as before. -/
def State.keepsInputs (s t : State) : Prop :=
  t.params = s.params ∧ t.irqEn = s.irqEn ∧ t.cfgN = s.cfgN ∧ t.cfgF = s.cfgF ∧ t.cfgC = s.cfgC ∧
  t.cfgAlpha = s.cfgAlpha

/-- The model's own fields are as before. -/
def State.keepsHost (s t : State) : Prop :=
  t.events = s.events ∧ t.replies = s.replies ∧ t.latency = s.latency ∧ t.delay = s.delay ∧
  t.draws = s.draws

/-- A completion without error of the command OP, with NF as given: of STATUS, DONE is set, BUSY cleared and LASTOP
written, the rest kept; PENDING is empty and ERR_INFO kept (42_control.md R181). -/
def State.completedAs (s t : State) (op : BitVec 8) (nf : Bool) : Prop :=
  t.status = { s.status with busy := false, done := true, lastop := op, nf := nf } ∧
  t.pending = none ∧ t.errInfo = s.errInfo

/-- `need(D, L)` raises e (60_exceptions.md R203); `num` is D's register number. -/
def Desc.fails (d : Desc) (l : Nat) (num : Word) (e : CmdError) : Prop :=
  (d.v = false ∧ e = ⟨.notReady, num⟩) ∨
  (d.v = true ∧ d.len.toNat ≠ l ∧ e = ⟨.length, num⟩)

/-- `need(D, L)` passes (60_exceptions.md R203). -/
def Desc.ready (d : Desc) (l : Nat) : Prop := d.v = true ∧ d.len.toNat = l

/-- The ranges of N, F and C that RUN needs (60_exceptions.md R202). -/
def State.runConfig (s : State) : Prop :=
  2 ≤ s.n ∧ s.n ≤ s.params.nMax ∧ 2 ≤ s.f ∧ s.f ≤ s.params.fMax ∧ 1 ≤ s.c ∧ s.c ≤ s.params.cMax

/-- The next step is the host turn that takes event e: no command completes in it, and e is the first event (logs 7, 8). -/
def State.takes (s : State) (e : HostOp) : Prop :=
  (s.status.busy = false ∨ 0 < s.delay) ∧ s.events.head? = some e

/-- Every sample below N has been written. -/
def State.samplesWritten (s : State) : Prop := ∀ i, i < s.n → s.sinW i = true

end Sys2Proof.Machine
end

