-- ==== Sys2Proof/Certificates/Slice0/Obligations.lean ====
section
/-! DEFINITION. The statements about MFCC-CORE for the provers. Each docstring names the rule of spec/ it formalises, or the
log entry of the model's choice it rests on. -/

open Sys2Proof Sys2Proof.Machine

/-! ## Encoding -/

/-- 30_encoding.md R101: a word is a command exactly when RSV = 0 and OP is in the map, each OP is the command the map
gives it, and a command has exactly one word. -/
def Obligations.CommandWordsAreExactlyTheOpcodeMap : Prop :=
  (∀ w : Word, (∃ i, decodeWord w = .ok i) ↔
    w.extractLsb' 8 56 = 0 ∧
    w.extractLsb' 0 8 ∈
      [0x00#8, 0x01#8, 0x02#8, 0x0E#8, 0x0F#8, 0x10#8, 0x11#8, 0x12#8, 0x13#8, 0x14#8, 0x15#8, 0x20#8]) ∧
  (∀ x ∈ [(0x00#64, Instr.nop), (0x01#64, .buildHann), (0x02#64, .buildFb), (0x0E#64, .softReset),
      (0x0F#64, .clearStatus), (0x10#64, .preemph), (0x11#64, .window), (0x12#64, .dft), (0x13#64, .mag),
      (0x14#64, .melfb), (0x15#64, .log), (0x20#64, .run)], decodeWord x.1 = .ok x.2) ∧
  (∀ (w : Word) (i : Instr), decodeWord w = .ok i ↔ w = encode i)

/-- 30_encoding.md R101, R102 (a few words written out): the decoder reads the table's words and refuses others. -/
def Obligations.WrittenOutWordsDecode : Prop :=
  decodeTableWord 64 0x0000000000000000 = some .nop ∧
  decodeTableWord 64 0x0000000000000001 = some .buildHann ∧
  decodeTableWord 64 0x0000000000000012 = some .dft ∧
  decodeTableWord 64 0x0000000000000020 = some .run ∧
  decodeTableWord 64 0x0000000000000003 = none ∧
  decodeTableWord 64 0x0000000000000110 = none ∧
  decodeTableWord 64 0x8000000000000010 = none

/-- 20_memory.md R73: byte lane k carries word bits 8k+7 to 8k, and the eight lanes carry the whole word. -/
def Obligations.ByteLanesCarryTheWord : Prop :=
  ∀ w : Word, wordOfLanes (Word.lanes w) = w ∧
    ∀ k, k < 8 → (Word.lanes w)[k]? = some (w.extractLsb' (8 * k) 8)

/-- 30_encoding.md R101 to R104: encode and decode agree through the lanes and the table word. That the very next step runs
the command is the model's choice (logs 7 and 8): `withFetchWord` leaves no host turn before the completion, where
42_control.md R186 leaves the time open. -/
def Obligations.EncodedCommandRunsInTheNextStep : Prop :=
  ∀ (i : Instr) (s : State), i.wf = true →
    decodeLanes (Word.lanes (encode i)) = .ok i ∧
    decodeTableWord 64 (encode i).toNat = some i ∧
    step (s.withFetchWord 64 (encode i).toNat) = exec i (s.withFetchWord 64 (encode i).toNat)

/-! ## Reset and registers -/

/-- 10_state.md R61: hardware reset and SOFT_RESET give every piece of the block's state its reset value, for every build;
the reference instantiation is `State.reset`. -/
def Obligations.ResetGivesEveryResetValue : Prop :=
  State.reset = State.resetOf ⟨.binary64, 4096, 65536, 64, .reference⟩ ∧
  ∀ s : State, ∀ t ∈ [State.resetOf s.params, s.toReset, s.resetPin, s.resetInFlight],
    exec .softReset s = .next s.toReset ∧
    t.params = s.params ∧
    t.status = ⟨false, false, false, false, false, 0x00, 0x00⟩ ∧ t.status.word = 0 ∧
    t.irqEn = false ∧ t.errInfo = 0 ∧ t.cfgN = 1024 ∧ t.cfgF = 44000 ∧ t.cfgC = 20 ∧
    (t.params.numFmt = .binary64 → t.cfgAlpha = 0x3FEF0A3D70A3D70A) ∧
    (t.params.numFmt = .binary32 → t.cfgAlpha = 0x3F7851EC) ∧
    (∀ d, t.desc d = ⟨false, 0, 0⟩ ∧ (t.desc d).word = 0) ∧
    t.pending = none ∧ (∀ i, t.sinW i = false) ∧ (∀ b i, t.entry b i = none) ∧ t.irq = false

/-- 10_state.md R33 to R35: the identity and capacity registers read their constants, and a write to one is a bus error. -/
def Obligations.IdentityAndCapacityRegisters : Prop :=
  ∀ s : State,
    s.hostRead 0x00000000 = s.reply ⟨true, some 0x4D464343434F5245⟩ ∧
    s.hostRead 0x00000001 = s.reply ⟨true, some 0x0000000000010007⟩ ∧
    s.hostRead 0x00000002 = s.reply ⟨true, some (BitVec.ofNat 64 s.params.nMax)⟩ ∧
    s.hostRead 0x00000003 = s.reply ⟨true, some (BitVec.ofNat 64 s.params.fMax)⟩ ∧
    s.hostRead 0x00000004 = s.reply ⟨true, some (BitVec.ofNat 64 s.params.cMax)⟩ ∧
    s.hostRead 0x00000005 = s.reply ⟨true, some (if s.params.numFmt = .binary64 then 1 else 0)⟩ ∧
    (s.params.legal = true → ∀ k ∈ [s.params.nMax, s.params.fMax, s.params.cMax],
      (BitVec.ofNat 64 k).extractLsb' 0 32 = BitVec.ofNat 32 k ∧ (BitVec.ofNat 32 k).toNat = k ∧
      (BitVec.ofNat 64 k).extractLsb' 32 32 = 0) ∧
    ∀ a ∈ [0x00000000#32, 0x00000001#32, 0x00000002#32, 0x00000003#32, 0x00000004#32, 0x00000005#32],
      ∀ w, s.hostWrite a w = s.busError

/-- 10_state.md R37: the fields of STATUS as the host reads it, and what a write to STATUS does. -/
def Obligations.StatusRegisterFields : Prop :=
  ∀ s : State,
    s.hostRead 0x00000009 = s.reply ⟨true, some s.status.word⟩ ∧
    s.status.word.getLsbD 0 = s.status.busy ∧
    s.status.word.getLsbD 1 = s.status.done ∧
    s.status.word.getLsbD 2 = s.status.err ∧
    s.status.word.getLsbD 3 = s.status.dropped ∧
    s.status.word.getLsbD 4 = s.status.nf ∧
    s.status.word.extractLsb' 5 3 = 0 ∧
    s.status.word.extractLsb' 8 8 = s.status.errcode ∧
    s.status.word.extractLsb' 16 8 = s.status.lastop ∧
    s.status.word.extractLsb' 24 40 = 0 ∧
    (∀ w : Word, w.getLsbD 1 = true →
      s.hostWrite 0x00000009 w =
        ({ s with status := { s.status with done := false } } : State).reply ⟨true, none⟩) ∧
    (∀ w : Word, w.getLsbD 1 = false → s.hostWrite 0x00000009 w = s.reply ⟨true, none⟩) ∧
    State.reset.status.word = 0

/-- 10_state.md R43: CTRL reads IRQ_EN in bit 0 and 0 elsewhere; a write stores bit 0, busy or not, and changes nothing
else; IRQ_EN enables `irq`. -/
def Obligations.ControlRegister : Prop :=
  ∀ s : State,
    State.reset.irqEn = false ∧
    (s.irq = true → s.irqEn = true) ∧
    s.hostRead 0x0000000A = s.reply ⟨true, some (if s.irqEn then 1 else 0)⟩ ∧
    ∀ w : Word, s.hostWrite 0x0000000A w =
      ({ s with irqEn := w.getLsbD 0 } : State).reply ⟨true, none⟩

/-- 10_state.md R45 to R48, 20_memory.md R72, R81, R83: an idle block stores bits 31:0 of a word written to CFG_N, CFG_F or
CFG_C and the `Num` word written to CFG_ALPHA, and nothing else changes; a read gives the register back, busy or not
(R85). -/
def Obligations.ConfigurationRegisters : Prop :=
  ∀ (s : State) (w : Word),
    (s.status.busy = false →
      s.hostWrite 0x00000010 w = ({ s with cfgN := w.extractLsb' 0 32 } : State).reply ⟨true, none⟩ ∧
      s.hostWrite 0x00000011 w = ({ s with cfgF := w.extractLsb' 0 32 } : State).reply ⟨true, none⟩ ∧
      s.hostWrite 0x00000012 w = ({ s with cfgC := w.extractLsb' 0 32 } : State).reply ⟨true, none⟩ ∧
      (s.params.numFmt = .binary64 →
        s.hostWrite 0x00000013 w = ({ s with cfgAlpha := w } : State).reply ⟨true, none⟩) ∧
      (s.params.numFmt = .binary32 →
        s.hostWrite 0x00000013 w =
          ({ s with cfgAlpha := (w.extractLsb' 0 32).setWidth 64 } : State).reply ⟨true, none⟩)) ∧
    s.hostRead 0x00000010 = s.reply ⟨true, some (s.cfgN.setWidth 64)⟩ ∧
    s.hostRead 0x00000011 = s.reply ⟨true, some (s.cfgF.setWidth 64)⟩ ∧
    s.hostRead 0x00000012 = s.reply ⟨true, some (s.cfgC.setWidth 64)⟩ ∧
    s.hostRead 0x00000013 = s.reply ⟨true, some s.cfgAlpha⟩

/-- 10_state.md R36, R49, R50: CMD reads 0, ERR_INFO reads its word, and a descriptor reads V in bit 63, CH in bits 47:32,
LEN in bits 31:0 and 0 elsewhere, at its number. -/
def Obligations.DescriptorRegisterFields : Prop :=
  ∀ s : State,
    s.hostRead 0x00000008 = s.reply ⟨true, some 0⟩ ∧
    s.hostRead 0x0000000B = s.reply ⟨true, some s.errInfo⟩ ∧
    ∀ x ∈ [(0x20#32, s.hannDesc), (0x21#32, s.fbDesc), (0x22#32, s.preDesc), (0x23#32, s.winDesc),
        (0x24#32, s.dftDesc), (0x25#32, s.ampDesc), (0x26#32, s.melDesc), (0x27#32, s.logDesc)],
      s.hostRead x.1 = s.reply ⟨true, some x.2.word⟩ ∧
      x.2.word.getLsbD 63 = x.2.v ∧
      x.2.word.extractLsb' 48 15 = 0 ∧
      x.2.word.extractLsb' 32 16 = x.2.ch ∧
      x.2.word.extractLsb' 0 32 = x.2.len

/-! ## The bus -/

/-- 20_memory.md R74, R75, R77: an address selects exactly the register or entry of the map, without aliases: bits 31:24 are
the region, bits 23:0 the offset. The regions and their entry counts are written out from R75's table. -/
def Obligations.AddressMapHasNoAlias : Prop :=
  ∀ p : Params, p.legal = true →
    (∀ x ∈ [(Buffer.sin, 0x01, p.nMax), (.pre, 0x02, p.nMax), (.win, 0x03, p.nMax), (.hann, 0x04, p.nMax),
        (.re, 0x05, p.fMax), (.im, 0x06, p.fMax), (.amp, 0x07, p.fMax), (.mel, 0x08, p.cMax),
        (.logmel, 0x09, p.cMax), (.fbIstart, 0x0A, p.cMax), (.fbIcenter, 0x0B, p.cMax), (.fbIend, 0x0C, p.cMax)],
      x.1.region = x.2.1 ∧ x.1.capacity p = x.2.2) ∧
    (∀ c, (Buffer.fbw c).region = 0x80 + c ∧
      (Buffer.fbw c).capacity p = if c < p.cMax then p.fMax / 2 else 0) ∧
    (∀ (b : Buffer) (i : Nat), i < b.capacity p →
      b.addr i < 2 ^ 32 ∧ i < 2 ^ 24 ∧ b.addr i = b.region * 2 ^ 24 + i ∧
      select p (BitVec.ofNat 32 (b.addr i)) = some (.entry b i)) ∧
    (∀ r : Reg, select p (BitVec.ofNat 32 r.number) = some (.reg r)) ∧
    (∀ (a : Addr) (l : Loc), select p a = some l →
      (∃ r, l = .reg r ∧ a.toNat = r.number) ∨
      (∃ b i, l = .entry b i ∧ a.toNat = b.addr i ∧ i < b.capacity p))

/-- 20_memory.md R78: which transactions are bus errors, and that a bus error changes nothing but the response. -/
def Obligations.BusErrorsChangeNothing : Prop :=
  ∀ (s : State) (a : Addr) (w : Word),
    s.busError = { s with replies := ⟨false, some 0⟩ :: s.replies } ∧
    (select s.params a = none → s.hostRead a = s.busError ∧ s.hostWrite a w = s.busError) ∧
    (∀ r, select s.params a = some (.reg r) →
      r ∈ [Reg.id, .version, .capN, .capF, .capC, .capFmt, .errInfo] ∨ (∃ d, r = .desc d) →
      s.hostWrite a w = s.busError) ∧
    (∀ b i, select s.params a = some (.entry b i) → b ≠ .sin → s.hostWrite a w = s.busError) ∧
    (∀ l, select s.params a = some l → ∃ v, (s.hostRead a).replies = ⟨true, some v⟩ :: s.replies) ∧
    (∀ r, select s.params a = some (.reg r) →
      r ∈ [Reg.cmd, .status, .ctrl, .cfgN, .cfgF, .cfgC, .cfgAlpha] →
      (s.hostWrite a w).replies = ⟨true, none⟩ :: s.replies) ∧
    (∀ i, select s.params a = some (.entry .sin i) →
      (s.hostWrite a w).replies = ⟨true, none⟩ :: s.replies)

/-- 20_memory.md R80, R85, 10_state.md R56, R57: what a READ of an entry returns: its value if it holds one, is within its
buffer's descriptor and is not in the pending command's write set; otherwise a fresh free word, of which no bit is fixed
in either format, which is the model's choice (log 6). Which entries of the filter-bank tables are within FB_DESC is the
model's reading (log 17). Nothing else changes. -/
def Obligations.EntryReadReturnsItsValueOrAFreeWord : Prop :=
  ∀ (s : State) (a : Addr) (b : Buffer) (i : Nat), select s.params a = some (.entry b i) →
    (∀ v, s.entry b i = some v → s.inWriteSet b i = false → s.withinDesc b i = true →
      s.hostRead a = { s with replies := ⟨true, some v⟩ :: s.replies }) ∧
    (s.entry b i = none ∨ s.inWriteSet b i = true ∨ s.withinDesc b i = false →
      s.hostRead a =
        { s with
          replies := ⟨true, some (Config.freeWord s.draws)⟩ :: s.replies
          draws := s.draws + 1 }) ∧
    (s.withinDesc b i = true ↔
      match b with
      | .sin => True
      | .pre => s.preDesc.v = true ∧ i < s.preDesc.len.toNat
      | .win => s.winDesc.v = true ∧ i < s.winDesc.len.toNat
      | .hann => s.hannDesc.v = true ∧ i < s.hannDesc.len.toNat
      | .re | .im => s.dftDesc.v = true ∧ i < s.dftDesc.len.toNat
      | .amp => s.ampDesc.v = true ∧ i < s.ampDesc.len.toNat
      | .mel => s.melDesc.v = true ∧ i < s.melDesc.len.toNat
      | .logmel => s.logDesc.v = true ∧ i < s.logDesc.len.toNat
      | .fbIstart | .fbIcenter | .fbIend => s.fbDesc.v = true ∧ i < s.fbDesc.ch.toNat
      | .fbw c => s.fbDesc.v = true ∧ c < s.fbDesc.ch.toNat ∧ i < s.fbDesc.len.toNat)

/-- 42_control.md R182: the write set of each pending command; SIN in the sets of SOFT_RESET and of illegal words is the
model's reading of "every buffer" (log 13). -/
def Obligations.WriteSetsOfPendingCommands : Prop :=
  ∀ (s : State) (w : Word) (b : Buffer) (i : Nat),
    (s.status.busy = false → s.inWriteSet b i = false) ∧
    (s.status.busy = true → s.pending = some w →
      (w = 0x00 ∨ w = 0x0F → s.inWriteSet b i = false) ∧
      (w = 0x01 → (s.inWriteSet b i = true ↔ b = .hann ∧ i < s.n)) ∧
      (w = 0x02 → (s.inWriteSet b i = true ↔
        (b ∈ [Buffer.fbIstart, .fbIcenter, .fbIend] ∧ i < s.c) ∨ (∃ k, b = .fbw k ∧ k < s.c ∧ i < s.nyq))) ∧
      (w = 0x10 → (s.inWriteSet b i = true ↔ b = .pre ∧ i < s.n)) ∧
      (w = 0x11 → (s.inWriteSet b i = true ↔ b = .win ∧ i < s.n)) ∧
      (w = 0x12 → (s.inWriteSet b i = true ↔ (b = .re ∨ b = .im) ∧ i < s.f)) ∧
      (w = 0x13 → (s.inWriteSet b i = true ↔ b = .amp ∧ i < s.f)) ∧
      (w = 0x14 → (s.inWriteSet b i = true ↔ b = .mel ∧ i < s.c)) ∧
      (w = 0x15 → (s.inWriteSet b i = true ↔ b = .logmel ∧ i < s.c)) ∧
      (w = 0x20 → (s.inWriteSet b i = true ↔
        (b ∈ [Buffer.hann, .pre, .win] ∧ i < s.n) ∨ (b ∈ [Buffer.re, .im, .amp] ∧ i < s.f) ∨
        (b ∈ [Buffer.mel, .logmel, .fbIstart, .fbIcenter, .fbIend] ∧ i < s.c) ∨
        (∃ k, b = .fbw k ∧ k < s.c ∧ i < s.nyq))) ∧
      (w = 0x0E ∨ (∀ cmd, w ≠ encode cmd) → s.inWriteSet b i = true))

/-- 10_state.md R57, 20_memory.md R81 to R83: a sample written while idle sets SIN_W, changes no other entry, and is what
the next READ returns, bit for bit with binary64 and in its low half with binary32. -/
def Obligations.WrittenSampleIsReadBack : Prop :=
  ∀ (s : State) (i : Nat) (w : Word), s.params.legal = true → s.status.busy = false → i < s.params.nMax →
    ∃ t, s.hostWrite (BitVec.ofNat 32 (0x01000000 + i)) w = t ∧
      t.sinW i = true ∧
      (∀ a, a ≠ 0x01000000 + i → t.mem.read a = s.mem.read a) ∧
      t.replies = ⟨true, none⟩ :: s.replies ∧
      t = { s with mem := t.mem, replies := t.replies } ∧
      (s.params.numFmt = .binary64 →
        t.hostRead (BitVec.ofNat 32 (0x01000000 + i)) = t.reply ⟨true, some w⟩) ∧
      (s.params.numFmt = .binary32 →
        t.hostRead (BitVec.ofNat 32 (0x01000000 + i)) =
          t.reply ⟨true, some ((w.extractLsb' 0 32).setWidth 64)⟩)

/-- 20_memory.md R84, 10_state.md R42: while busy, writes to the configuration, to SIN and to CMD are discarded and set
DROPPED, and nothing else changes; CTRL and STATUS writes are performed. -/
def Obligations.WritesWhileBusyAreDropped : Prop :=
  ∀ (s : State) (a : Addr) (w : Word), s.status.busy = true →
    (∀ l, select s.params a = some l →
      l ∈ [Loc.reg .cmd, .reg .cfgN, .reg .cfgF, .reg .cfgC, .reg .cfgAlpha] ∨ (∃ i, l = .entry .sin i) →
      s.hostWrite a w =
        { s with
          status := { s.status with dropped := true }
          replies := ⟨true, none⟩ :: s.replies }) ∧
    (select s.params a = some (.reg .ctrl) →
      s.hostWrite a w = { s with irqEn := w.getLsbD 0, replies := ⟨true, none⟩ :: s.replies }) ∧
    (select s.params a = some (.reg .status) → w.getLsbD 1 = true →
      s.hostWrite a w =
        { s with
          status := { s.status with done := false }
          replies := ⟨true, none⟩ :: s.replies }) ∧
    (select s.params a = some (.reg .status) → w.getLsbD 1 = false →
      s.hostWrite a w = { s with replies := ⟨true, none⟩ :: s.replies })

/-- 42_control.md R180: acceptance. How long the command will take (`delay`, from `latency` or a free draw, log 7) is not
the rule's. -/
def Obligations.CommandAcceptance : Prop :=
  ∀ (s : State) (w : Word),
    (s.status.busy = true →
      s.hostWrite 0x00000008 w =
        { s with status := { s.status with dropped := true }, replies := ⟨true, none⟩ :: s.replies }) ∧
    (s.status.busy = false → s.status.err = true → w ≠ 0x0E → w ≠ 0x0F →
      s.hostWrite 0x00000008 w =
        { s with status := { s.status with dropped := true }, replies := ⟨true, none⟩ :: s.replies }) ∧
    (s.status.busy = false → s.status.err = false ∨ w = 0x0E ∨ w = 0x0F →
      ∃ d l n, s.hostWrite 0x00000008 w =
        { s with
          pending := some w
          status := { s.status with busy := true, done := false }
          replies := ⟨true, none⟩ :: s.replies
          delay := d
          latency := l
          draws := n })

/-! ## Which steps change what

`s.takes e` says that the step of s is the host turn that takes event e. Events, host turns and `delay` are the model's form
of the host and of a command's time (logs 7 and 8); what may change is the rules'. -/

/-- 42_control.md R184, 60_exceptions.md R207: the error lock is left only by the completion of CLEAR_STATUS or SOFT_RESET
or by the reset pin (turns and events: logs 7, 8). -/
def Obligations.ErrorLockIsLeftOnlyByClearOrReset : Prop :=
  ∀ s t : State, step s = .next t → s.status.err = true → t.status.err = false →
    (s.status.busy = true ∧ s.delay = 0 ∧ (s.pending = some 0x0F ∨ s.pending = some 0x0E)) ∨
    s.takes .resetPin ∨ s.takes .resetInFlight

/-- 10_state.md R42: DROPPED is set only by a discarded write and cleared only by CLEAR_STATUS and by reset (turns and
events: logs 7, 8). -/
def Obligations.DroppedChangesOnlyByDiscardClearOrReset : Prop :=
  ∀ s t : State, step s = .next t →
    (s.status.dropped = false → t.status.dropped = true →
      ∃ a w l, s.takes (.write a w) ∧ select s.params a = some l ∧
        ((l = .reg .cmd ∧ (s.status.busy = true ∨ (s.status.err = true ∧ w ≠ 0x0E ∧ w ≠ 0x0F))) ∨
         (s.status.busy = true ∧
          (l ∈ [Loc.reg .cfgN, .reg .cfgF, .reg .cfgC, .reg .cfgAlpha] ∨ ∃ i, l = .entry .sin i)))) ∧
    (s.status.dropped = true → t.status.dropped = false →
      (s.status.busy = true ∧ s.delay = 0 ∧ (s.pending = some 0x0F ∨ s.pending = some 0x0E)) ∨
      s.takes .resetPin ∨ s.takes .resetInFlight)

/-- 10_state.md R41: NF is written only by the LOG stage, as LOG or in RUN, and cleared by reset (turns and events: logs 7,
8). -/
def Obligations.NonFiniteFlagChangesOnlyByLogRunOrReset : Prop :=
  ∀ s t : State, step s = .next t → t.status.nf ≠ s.status.nf →
    (s.status.busy = true ∧ s.delay = 0 ∧
      (s.pending = some 0x15 ∨ s.pending = some 0x20 ∨ s.pending = some 0x0E)) ∨
    s.takes .resetPin ∨ s.takes .resetInFlight

/-- 10_state.md R38: BUSY is set only by the acceptance of a command and cleared only by its completion or by reset (turns
and events: logs 7, 8). -/
def Obligations.BusyChangesOnlyByAcceptanceAndCompletion : Prop :=
  ∀ s t : State, step s = .next t →
    (s.status.busy = false → t.status.busy = true →
      ∃ a w, s.takes (.write a w) ∧ select s.params a = some (.reg .cmd) ∧
        t.pending = some w ∧ t.status.done = false) ∧
    (s.status.busy = true → t.status.busy = false →
      s.delay = 0 ∨ s.takes .resetPin ∨ s.takes .resetInFlight)

/-- 10_state.md R50 to R53: a descriptor changes only at the completion of its producing command, of RUN or of SOFT_RESET,
or by reset (turns and events: logs 7, 8); and no step changes the build (R32). -/
def Obligations.DescriptorsChangeOnlyByTheirProducers : Prop :=
  ∀ s t : State, step s = .next t →
    t.params = s.params ∧
    ∀ x ∈ [(DescName.hann, 0x01#64), (.fb, 0x02#64), (.pre, 0x10#64), (.win, 0x11#64), (.dft, 0x12#64),
        (.amp, 0x13#64), (.mel, 0x14#64), (.log, 0x15#64)],
      t.desc x.1 ≠ s.desc x.1 →
        (s.status.busy = true ∧ s.delay = 0 ∧
          (s.pending = some x.2 ∨ s.pending = some 0x20 ∨ s.pending = some 0x0E)) ∨
        s.takes .resetPin ∨ s.takes .resetInFlight

/-- 20_memory.md R84, R89: whatever the host does while a command is pending, short of reset, the command's completion
leaves the same memory, descriptors, configuration, NF, error and ERR_INFO. -/
def Obligations.HostCannotDisturbAPendingCommand : Prop :=
  ∀ (s : State) (e : HostOp) (i : Instr) (t : State), s.status.busy = true →
    e ≠ .resetPin → e ≠ .resetInFlight → exec i s = .next t →
    ∃ u, exec i (s.perform e) = .next u ∧
      u.mem = t.mem ∧ (∀ d, u.desc d = t.desc d) ∧ u.cfgN = t.cfgN ∧ u.cfgF = t.cfgF ∧ u.cfgC = t.cfgC ∧
      u.cfgAlpha = t.cfgAlpha ∧ u.status.nf = t.status.nf ∧ u.status.err = t.status.err ∧
      u.status.errcode = t.status.errcode ∧ u.status.lastop = t.status.lastop ∧ u.errInfo = t.errInfo

/-- 42_control.md R186: a pending command completes after the host turns it takes (`delay`, log 7), whatever the host does
in them short of reset. -/
def Obligations.PendingCommandCompletes : Prop :=
  ∀ (s : State) (w : Word), s.status.busy = true → s.pending = some w →
    (∀ e ∈ s.events, e ≠ .resetPin ∧ e ≠ .resetInFlight) →
    (∀ k, k ≤ s.delay → ∃ t, Host.Core.run core k s = .next t ∧ t.status.busy = true ∧ t.pending = some w) ∧
    ∃ t, Host.Core.run core (s.delay + 1) s = .next t ∧ t.status.busy = false ∧ t.pending = none

/-! ## Errors -/

/-- 42_control.md R181: the completion of a pending word that decodes to a command is `exec` of that command. When it comes
(no host turn left), and that every other step is one host turn that takes the first event, is the model's choice (logs 7
and 8). -/
def Obligations.StepRunsTheDecodedCommand : Prop :=
  ∀ s : State,
    (∀ w i, s.status.busy = true → s.delay = 0 → s.pending = some w → decodeWord w = .ok i →
      step s = exec i s) ∧
    (∀ d, s.status.busy = true → s.delay = d + 1 →
      step s = .next ({ s with delay := d } : State).hostTurn) ∧
    (s.status.busy = false → step s = .next s.hostTurn) ∧
    (∀ e rest, s.events = e :: rest → s.hostTurn = ({ s with events := rest } : State).perform e) ∧
    (s.events = [] → s.hostTurn = s)

/-- 30_encoding.md R102, 60_exceptions.md R200, R201: an accepted word that is no command completes with E_ILLEGAL_CMD and
the whole word in ERR_INFO, and nothing else is written. -/
def Obligations.IllegalWordCompletesWithError : Prop :=
  ∀ (s : State) (w : Word), s.status.busy = true → s.delay = 0 → s.pending = some w → s.status.err = false →
    (w.extractLsb' 8 56 ≠ 0 ∨ w.extractLsb' 0 8 ∉
      [0x00#8, 0x01#8, 0x02#8, 0x0E#8, 0x0F#8, 0x10#8, 0x11#8, 0x12#8, 0x13#8, 0x14#8, 0x15#8, 0x20#8]) →
    step s = .next
      { s with
        status :=
          { s.status with err := true, errcode := 0x01, lastop := w.extractLsb' 0 8, busy := false }
        errInfo := w
        pending := none }

/-- 60_exceptions.md R200, R205, 10_state.md R40: error entry records the first error and writes only ERR, ERRCODE,
ERR_INFO, LASTOP, BUSY and PENDING; the codes are those of the table. -/
def Obligations.ErrorEntryWritesStatusOnly : Prop :=
  ErrCode.illegalCmd.byte = 0x01 ∧ ErrCode.config.byte = 0x02 ∧ ErrCode.notReady.byte = 0x03 ∧
  ErrCode.length.byte = 0x04 ∧ ErrCode.uninit.byte = 0x05 ∧
  ∀ (s : State) (op : BitVec 8) (e : CmdError),
    (s.status.err = false → s.errorEntry op e =
      { s with
        status := { s.status with err := true, errcode := e.code.byte, lastop := op, busy := false }
        errInfo := e.info
        pending := none }) ∧
    (s.status.err = true → s.errorEntry op e =
      { s with
        status := { s.status with lastop := op, busy := false }
        pending := none })

/-- 60_exceptions.md R202, R204: a configuration register out of a command's legal range ends it with E_CONFIG and the
register's number; the registers are checked in the order N, F, C, before everything else. -/
def Obligations.ConfigurationRangeErrors : Prop :=
  ∀ s : State,
    (¬ (2 ≤ s.n ∧ s.n ≤ s.params.nMax) →
      exec .buildHann s = .next (s.errorEntry 0x01 ⟨.config, 0x10⟩) ∧
      exec .window s = .next (s.errorEntry 0x11 ⟨.config, 0x10⟩) ∧
      exec .run s = .next (s.errorEntry 0x20 ⟨.config, 0x10⟩)) ∧
    (¬ s.n ≤ s.params.nMax → exec .preemph s = .next (s.errorEntry 0x10 ⟨.config, 0x10⟩)) ∧
    (¬ (1 ≤ s.f ∧ s.f ≤ s.params.fMax) →
      exec .dft s = .next (s.errorEntry 0x12 ⟨.config, 0x11⟩) ∧
      exec .mag s = .next (s.errorEntry 0x13 ⟨.config, 0x11⟩)) ∧
    (¬ (2 ≤ s.f ∧ s.f ≤ s.params.fMax) →
      exec .buildFb s = .next (s.errorEntry 0x02 ⟨.config, 0x11⟩) ∧
      exec .melfb s = .next (s.errorEntry 0x14 ⟨.config, 0x11⟩) ∧
      (2 ≤ s.n → s.n ≤ s.params.nMax → exec .run s = .next (s.errorEntry 0x20 ⟨.config, 0x11⟩))) ∧
    (¬ (1 ≤ s.c ∧ s.c ≤ s.params.cMax) →
      exec .log s = .next (s.errorEntry 0x15 ⟨.config, 0x12⟩) ∧
      (2 ≤ s.f → s.f ≤ s.params.fMax →
        exec .buildFb s = .next (s.errorEntry 0x02 ⟨.config, 0x12⟩) ∧
        exec .melfb s = .next (s.errorEntry 0x14 ⟨.config, 0x12⟩) ∧
        (2 ≤ s.n → s.n ≤ s.params.nMax → exec .run s = .next (s.errorEntry 0x20 ⟨.config, 0x12⟩))))

/-- 60_exceptions.md R203, R204: a stage whose input was never produced, or was produced for another length, ends with
E_NOT_READY or E_LENGTH and the descriptor's number, the descriptors being checked in the order of the table after the
configuration. -/
def Obligations.DescriptorErrors : Prop :=
  ∀ (s : State) (e : CmdError),
    (2 ≤ s.n → s.n ≤ s.params.nMax →
      (s.preDesc.fails s.n 0x22 e → exec .window s = .next (s.errorEntry 0x11 e)) ∧
      (s.preDesc.ready s.n → s.hannDesc.fails s.n 0x20 e → exec .window s = .next (s.errorEntry 0x11 e))) ∧
    (1 ≤ s.f → s.f ≤ s.params.fMax →
      (s.winDesc.fails s.n 0x23 e → exec .dft s = .next (s.errorEntry 0x12 e)) ∧
      (s.dftDesc.fails s.f 0x24 e → exec .mag s = .next (s.errorEntry 0x13 e))) ∧
    (2 ≤ s.f → s.f ≤ s.params.fMax → 1 ≤ s.c → s.c ≤ s.params.cMax →
      (s.ampDesc.fails s.f 0x25 e → exec .melfb s = .next (s.errorEntry 0x14 e)) ∧
      (s.ampDesc.ready s.f →
        ((s.fbDesc.v = false ∧ e = ⟨.notReady, 0x21⟩) ∨
         (s.fbDesc.v = true ∧ (s.fbDesc.len.toNat ≠ s.f / 2 ∨ s.fbDesc.ch.toNat ≠ s.c) ∧
          e = ⟨.length, 0x21⟩)) →
        exec .melfb s = .next (s.errorEntry 0x14 e))) ∧
    (1 ≤ s.c → s.c ≤ s.params.cMax →
      s.melDesc.fails s.c 0x26 e → exec .log s = .next (s.errorEntry 0x15 e))

/-- 60_exceptions.md R200, R201, 41_stages.md R140, 42_control.md R187: PREEMPH and RUN end with E_UNINIT and the lowest
index below N that was never written, once the configuration is legal. -/
def Obligations.UnwrittenSampleErrors : Prop :=
  ∀ (s : State) (j : Nat), j < s.n → s.sinW j = false → (∀ i, i < j → s.sinW i = true) →
    (s.n ≤ s.params.nMax → exec .preemph s = .next (s.errorEntry 0x10 ⟨.uninit, BitVec.ofNat 64 j⟩)) ∧
    (s.runConfig → exec .run s = .next (s.errorEntry 0x20 ⟨.uninit, BitVec.ofNat 64 j⟩))

/-- 60_exceptions.md R205, R209, 42_control.md R181: a command that completes with an error leaves every entry, descriptor
and configuration register, NF and DONE as they were. -/
def Obligations.FailedCommandKeepsEverythingElse : Prop :=
  ∀ (s t : State) (i : Instr), exec i s = .next t → s.status.err = false → t.status.err = true →
    t.mem = s.mem ∧ (∀ d, t.desc d = s.desc d) ∧ s.keepsInputs t ∧ s.keepsHost t ∧
    t.status =
      { s.status with err := true, errcode := t.status.errcode, lastop := i.op, busy := false } ∧
    t.status.errcode ∈ [0x02#8, 0x03#8, 0x04#8, 0x05#8] ∧ t.pending = none

/-! ## The commands, each completing where its rule says it executes normally -/

/-- 42_control.md R183: NOP changes only STATUS (and PENDING); under the error lock it is dropped. -/
def Obligations.NopCompletes : Prop :=
  ∀ s : State,
    (∃ t, exec .nop s = .next t ∧ t.mem = s.mem ∧ s.keepsDescs t [] ∧ s.keepsInputs t ∧ s.keepsHost t ∧
      s.completedAs t 0x00 s.status.nf) ∧
    (s.status.err = true → s.hostWrite 0x00000008 0x0000000000000000 = s.drop.reply ⟨true, none⟩)

/-- 42_control.md R184: CLEAR_STATUS clears ERR, ERRCODE, DROPPED and ERR_INFO, and completes. -/
def Obligations.ClearStatusCompletes : Prop :=
  ∀ s : State, ∃ t, exec .clearStatus s = .next t ∧
    t.status = ⟨false, true, false, false, s.status.nf, 0x00, 0x0F⟩ ∧ t.errInfo = 0 ∧ t.pending = none ∧
    t.mem = s.mem ∧ s.keepsDescs t [] ∧ s.keepsInputs t ∧ s.keepsHost t

/-- 42_control.md R185: SOFT_RESET gives every piece of the block's state its reset value, LASTOP and DONE too; what is the
host's stays (log 15). -/
def Obligations.SoftResetCompletes : Prop :=
  ∀ s : State, ∃ t, exec .softReset s = .next t ∧
    t = { State.resetOf s.params with
      events := s.events, replies := s.replies, latency := s.latency, draws := s.draws } ∧
    t.cfgN = 1024 ∧ t.cfgF = 44000 ∧ t.cfgC = 20 ∧ t.status.word = 0 ∧ t.irqEn = false ∧ t.errInfo = 0 ∧
    (∀ d, t.desc d = ⟨false, 0, 0⟩) ∧ t.pending = none ∧ (∀ a, t.mem.read a = none)

/-- 40_tables.md R123: BUILD_HANN writes HANN[0, N) and HANN_DESC and nothing else. -/
def Obligations.BuildHannCompletes : Prop :=
  ∀ s : State, 2 ≤ s.n → s.n ≤ s.params.nMax →
    ∃ t, exec .buildHann s = .next t ∧
      (∀ i, i < s.n → t.entry .hann i =
        some (fsub s.params.numFmt (numHalf s.params.numFmt)
          (fmul s.params.numFmt (numHalf s.params.numFmt) (cosT s.params (i % (s.n - 1)) (s.n - 1))))) ∧
      t.hannDesc = ⟨true, 0, s.cfgN⟩ ∧
      s.keepsMem t (Buffer.covers .hann s.n) ∧ s.keepsDescs t [.hann] ∧ s.keepsInputs t ∧ s.keepsHost t ∧
      s.completedAs t 0x01 s.status.nf

/-- 40_tables.md R120, R121, R125, R126: BUILD_FB writes the index tables, the weight matrix and FB_DESC and nothing else;
both mel conversions are written out. -/
def Obligations.BuildFbCompletes : Prop :=
  ∀ s : State, s.params.legal = true →
    2 ≤ s.f → s.f ≤ s.params.fMax → 1 ≤ s.c → s.c ≤ s.params.cMax →
    ∃ t, exec .buildFb s = .next t ∧
      (∀ melmax dmel iCen iSta iEn,
        melmax = fmul s.params.numFmt (numKMel s.params.numFmt) (lnF s.params (fadd s.params.numFmt
          (fdiv s.params.numFmt (num s.params.numFmt (s.f / 2)) (num700 s.params.numFmt))
          (numOne s.params.numFmt))) →
        dmel = fdiv s.params.numFmt melmax (num s.params.numFmt (s.c + 1)) →
        iCen = (fun k => floorIdx s.params.numFmt
          (fmul s.params.numFmt (num700 s.params.numFmt) (fsub s.params.numFmt
            (expF s.params (fdiv s.params.numFmt (fmul s.params.numFmt (num s.params.numFmt (k + 1)) dmel)
              (numKMel s.params.numFmt)))
            (numOne s.params.numFmt))) (s.f / 2)) →
        iSta = (fun k => if k = 0 then 0 else iCen (k - 1)) →
        iEn = (fun k => if k + 1 < s.c then iCen (k + 1) else s.f / 2) →
        ∀ k, k < s.c →
          t.entry .fbIstart k = some (BitVec.ofNat 64 (iSta k)) ∧
          t.entry .fbIcenter k = some (BitVec.ofNat 64 (iCen k)) ∧
          t.entry .fbIend k = some (BitVec.ofNat 64 (iEn k)) ∧
          ∀ i, i < s.f / 2 → t.entry (.fbw k) i = some
            (if i = iCen k then numOne s.params.numFmt
             else if iSta k ≤ i ∧ i < iCen k then
               fdiv s.params.numFmt (num s.params.numFmt (i - iSta k)) (num s.params.numFmt (iCen k - iSta k))
             else if iCen k < i ∧ i < iEn k then
               fdiv s.params.numFmt (num s.params.numFmt (iEn k - i)) (num s.params.numFmt (iEn k - iCen k))
             else zeroNum s.params.numFmt false)) ∧
      t.fbDesc.v = true ∧ t.fbDesc.ch.toNat = s.c ∧ t.fbDesc.len.toNat = s.f / 2 ∧
      s.keepsMem t (fun a =>
        Buffer.covers .fbIstart s.c a ∨ Buffer.covers .fbIcenter s.c a ∨ Buffer.covers .fbIend s.c a ∨
        ∃ k, k < s.c ∧ Buffer.covers (.fbw k) (s.f / 2) a) ∧
      s.keepsDescs t [.fb] ∧ s.keepsInputs t ∧ s.keepsHost t ∧ s.completedAs t 0x02 s.status.nf

/-- 41_stages.md R140: PREEMPH writes PRE[0, N) and PRE_DESC and nothing else; with N = 0 only PRE_DESC. PRE[0] is the bit
pattern of SIN[0]. -/
def Obligations.PreemphCompletes : Prop :=
  ∀ s : State, s.n ≤ s.params.nMax → s.samplesWritten →
    ∃ t, exec .preemph s = .next t ∧
      (0 < s.n → t.entry .pre 0 = s.entry .sin 0) ∧
      (∀ i x y, 0 < i → i < s.n → s.entry .sin i = some x → s.entry .sin (i - 1) = some y →
        t.entry .pre i = some (fsub s.params.numFmt x (fmul s.params.numFmt s.cfgAlpha y))) ∧
      t.preDesc = ⟨true, 0, s.cfgN⟩ ∧
      s.keepsMem t (Buffer.covers .pre s.n) ∧ s.keepsDescs t [.pre] ∧ s.keepsInputs t ∧ s.keepsHost t ∧
      s.completedAs t 0x10 s.status.nf

/-- 41_stages.md R145: WINDOW multiplies PRE by HANN into WIN. -/
def Obligations.WindowCompletes : Prop :=
  ∀ s : State, 2 ≤ s.n → s.n ≤ s.params.nMax → s.preDesc.ready s.n → s.hannDesc.ready s.n →
    ∃ t, exec .window s = .next t ∧
      (∀ i x h, i < s.n → s.entry .pre i = some x → s.entry .hann i = some h →
        t.entry .win i = some (fmul s.params.numFmt x h)) ∧
      (∀ i, i < s.n → (t.entry .win i).isSome = true) ∧
      t.winDesc = ⟨true, 0, s.cfgN⟩ ∧
      s.keepsMem t (Buffer.covers .win s.n) ∧ s.keepsDescs t [.win] ∧ s.keepsInputs t ∧ s.keepsHost t ∧
      s.completedAs t 0x11 s.status.nf

/-- 41_stages.md R150: DFT sums WIN against the twiddles into RE and IM, in ascending order from +0 (00_scope.md R14). -/
def Obligations.DftCompletes : Prop :=
  ∀ (s : State) (x : Nat → Word), s.params.legal = true →
    1 ≤ s.f → s.f ≤ s.params.fMax → s.winDesc.ready s.n → (∀ k, k < s.n → s.entry .win k = some (x k)) →
    ∃ t, exec .dft s = .next t ∧
      (∀ i, i < s.f →
        t.entry .re i = some ((List.range s.n).foldl (fun acc k => fadd s.params.numFmt acc
          (fmul s.params.numFmt (x k) (cosT s.params (k * i % s.f) s.f))) (zeroNum s.params.numFmt false)) ∧
        t.entry .im i = some ((List.range s.n).foldl (fun acc k => fadd s.params.numFmt acc
          (fmul s.params.numFmt (fneg s.params.numFmt (x k)) (sinT s.params (k * i % s.f) s.f)))
          (zeroNum s.params.numFmt false))) ∧
      t.dftDesc = ⟨true, 0, s.cfgF⟩ ∧
      s.keepsMem t (fun a => Buffer.covers .re s.f a ∨ Buffer.covers .im s.f a) ∧
      s.keepsDescs t [.dft] ∧ s.keepsInputs t ∧ s.keepsHost t ∧ s.completedAs t 0x12 s.status.nf

/-- 41_stages.md R155: MAG writes the magnitudes into AMP. -/
def Obligations.MagCompletes : Prop :=
  ∀ s : State, 1 ≤ s.f → s.f ≤ s.params.fMax → s.dftDesc.ready s.f →
    ∃ t, exec .mag s = .next t ∧
      (∀ i x y, i < s.f → s.entry .re i = some x → s.entry .im i = some y →
        t.entry .amp i = some (fsqrt s.params.numFmt
          (fadd s.params.numFmt (fmul s.params.numFmt x x) (fmul s.params.numFmt y y)))) ∧
      (∀ i, i < s.f → (t.entry .amp i).isSome = true) ∧
      t.ampDesc = ⟨true, 0, s.cfgF⟩ ∧
      s.keepsMem t (Buffer.covers .amp s.f) ∧ s.keepsDescs t [.amp] ∧ s.keepsInputs t ∧ s.keepsHost t ∧
      s.completedAs t 0x13 s.status.nf

/-- 41_stages.md R160: MELFB sums AMP against each row of the filter bank over [0, NYQ) into MEL, in ascending order from
+0 (00_scope.md R14). -/
def Obligations.MelfbCompletes : Prop :=
  ∀ (s : State) (x : Nat → Word) (g : Nat → Nat → Word),
    2 ≤ s.f → s.f ≤ s.params.fMax → 1 ≤ s.c → s.c ≤ s.params.cMax → s.ampDesc.ready s.f →
    s.fbDesc.ready (s.f / 2) → s.fbDesc.ch.toNat = s.c →
    (∀ i, i < s.f / 2 → s.entry .amp i = some (x i)) →
    (∀ k i, k < s.c → i < s.f / 2 → s.entry (.fbw k) i = some (g k i)) →
    ∃ t, exec .melfb s = .next t ∧
      (∀ k, k < s.c → t.entry .mel k = some ((List.range (s.f / 2)).foldl (fun acc i =>
        fadd s.params.numFmt acc (fmul s.params.numFmt (x i) (g k i))) (zeroNum s.params.numFmt false))) ∧
      t.melDesc = ⟨true, 0, s.cfgC⟩ ∧
      s.keepsMem t (Buffer.covers .mel s.c) ∧ s.keepsDescs t [.mel] ∧ s.keepsInputs t ∧ s.keepsHost t ∧
      s.completedAs t 0x14 s.status.nf

/-- 41_stages.md R170, 10_state.md R41: LOG writes 20·log10 of MEL into LOGMEL, and NF says whether some of it is not
finite. -/
def Obligations.LogCompletes : Prop :=
  ∀ (s : State) (x : Nat → Word),
    1 ≤ s.c → s.c ≤ s.params.cMax → s.melDesc.ready s.c → (∀ k, k < s.c → s.entry .mel k = some (x k)) →
    ∃ t nf, exec .log s = .next t ∧
      (∀ k, k < s.c → t.entry .logmel k =
        some (fmul s.params.numFmt (num20 s.params.numFmt) (log10F s.params (x k)))) ∧
      (nf = true ↔ ∃ k w, k < s.c ∧ t.entry .logmel k = some w ∧ isFinite s.params.numFmt w = false) ∧
      t.logDesc = ⟨true, 0, s.cfgC⟩ ∧
      s.keepsMem t (Buffer.covers .logmel s.c) ∧ s.keepsDescs t [.log] ∧ s.keepsInputs t ∧ s.keepsHost t ∧
      s.completedAs t 0x15 nf

/-- 42_control.md R187: RUN completes where its checks pass, with all eight descriptors, and in the state it leaves every
buffer is its stage's function of the buffers before it in the chain. -/
def Obligations.RunCompletes : Prop :=
  ∀ s : State, s.params.legal = true → s.runConfig → s.samplesWritten →
    ∃ t nf, exec .run s = .next t ∧
      (∀ i, i < s.n →
        t.entry .sin i = s.entry .sin i ∧
        t.entry .hann i = some (hannValue s.params s.n i) ∧
        t.entry .pre i = some (preemphValue s.params.numFmt s.cfgAlpha (t.operand .sin) i) ∧
        t.entry .win i = some (fmul s.params.numFmt (t.operand .pre i) (t.operand .hann i))) ∧
      (∀ i, i < s.f →
        t.entry .re i = some (dftRe s.params s.n s.f (t.operand .win) i) ∧
        t.entry .im i = some (dftIm s.params s.n s.f (t.operand .win) i) ∧
        t.entry .amp i = some (magValue s.params.numFmt (t.operand .re i) (t.operand .im i))) ∧
      (∀ k, k < s.c →
        t.entry .fbIcenter k = some (BitVec.ofNat 64 (iCenter s.params (s.f / 2) s.c k)) ∧
        t.entry .fbIstart k = some (BitVec.ofNat 64 (iStart s.params (s.f / 2) s.c k)) ∧
        t.entry .fbIend k = some (BitVec.ofNat 64 (iEnd s.params (s.f / 2) s.c k)) ∧
        (∀ i, i < s.f / 2 → t.entry (.fbw k) i = some (weightOf s.params (s.f / 2) s.c k i)) ∧
        t.entry .mel k = some (fsum s.params.numFmt (s.f / 2) (fun i =>
          fmul s.params.numFmt (t.operand .amp i) (t.operand (.fbw k) i))) ∧
        t.entry .logmel k = some (logValue s.params (t.operand .mel k))) ∧
      (nf = true ↔ ∃ k w, k < s.c ∧ t.entry .logmel k = some w ∧ isFinite s.params.numFmt w = false) ∧
      (∀ d ∈ [t.hannDesc, t.preDesc, t.winDesc], d = ⟨true, 0, s.cfgN⟩) ∧
      (∀ d ∈ [t.dftDesc, t.ampDesc], d = ⟨true, 0, s.cfgF⟩) ∧
      (∀ d ∈ [t.melDesc, t.logDesc], d = ⟨true, 0, s.cfgC⟩) ∧
      t.fbDesc.v = true ∧ t.fbDesc.ch.toNat = s.c ∧ t.fbDesc.len.toNat = s.f / 2 ∧
      s.keepsMem t (fun a =>
        (∃ b ∈ [Buffer.hann, .pre, .win], Buffer.covers b s.n a) ∨
        (∃ b ∈ [Buffer.re, .im, .amp], Buffer.covers b s.f a) ∨
        (∃ b ∈ [Buffer.mel, .logmel, .fbIstart, .fbIcenter, .fbIend], Buffer.covers b s.c a) ∨
        ∃ k, k < s.c ∧ Buffer.covers (.fbw k) (s.f / 2) a) ∧
      s.keepsInputs t ∧ s.keepsHost t ∧ s.completedAs t 0x20 nf

/-! ## Headline results about the chain -/

/-- 42_control.md R187: RUN's result equals issuing the eight commands in sequence: none of them fails (each completes with
DONE set and ERR as it was), and the states differ in LASTOP alone. -/
def Obligations.RunEqualsTheEightCommands : Prop :=
  ∀ s : State, s.params.legal = true → s.runConfig → s.samplesWritten →
    ∃ t1 t2 t3 t4 t5 t6 t7 t8 : State,
      exec .buildHann s = .next t1 ∧ exec .buildFb t1 = .next t2 ∧ exec .preemph t2 = .next t3 ∧
      exec .window t3 = .next t4 ∧ exec .dft t4 = .next t5 ∧ exec .mag t5 = .next t6 ∧
      exec .melfb t6 = .next t7 ∧ exec .log t7 = .next t8 ∧
      (∀ t ∈ [t1, t2, t3, t4, t5, t6, t7, t8], t.status.done = true ∧ t.status.err = s.status.err) ∧
      exec .run s = .next { t8 with status := { t8.status with lastop := 0x20 } }

/-- 41_stages.md R171: an all-zero frame gives AMP and MEL +0 everywhere and LOGMEL -∞ in every channel, with NF = 1 and no
error, wherever α, the window and the twiddles are finite (R171's products are of "+0 and a finite value"). -/
def Obligations.ZeroFrameGivesMinusInfinity : Prop :=
  ∀ s : State, s.params.legal = true → s.runConfig →
    (∀ i, i < s.n → s.entry .sin i = some (zeroNum s.params.numFmt false)) →
    isFinite s.params.numFmt s.cfgAlpha = true →
    (∀ i, i < s.n → isFinite s.params.numFmt (hannValue s.params s.n i) = true) →
    (∀ j, j < s.f → isFinite s.params.numFmt (cosT s.params j s.f) = true ∧
      isFinite s.params.numFmt (sinT s.params j s.f) = true) →
    ∃ t, exec .run s = .next t ∧
      (∀ i, i < s.f → t.entry .amp i = some (zeroNum s.params.numFmt false)) ∧
      (∀ k, k < s.c → t.entry .mel k = some (zeroNum s.params.numFmt false) ∧
        t.entry .logmel k = some (infNum s.params.numFmt true)) ∧
      t.status.nf = true ∧ t.status.err = s.status.err ∧ t.status.done = true

/-- 40_tables.md R123: whatever `NUMF` is, the first and the last entry of every window are exactly +0. -/
def Obligations.HannEndpointsAreZero : Prop :=
  ∀ (p : Params) (n : Nat), 2 ≤ n →
    hannValue p n 0 = zeroNum p.numFmt false ∧ hannValue p n (n - 1) = zeroNum p.numFmt false

/-- 40_tables.md R128: whatever `NUMF` is, the weights of a channel are +0 from its end on (beyond its centre) and, where
its start is not beyond its centre (which R127 gives for a monotone `NUMF`), below its start, and 1 at its centre; every
index is at most NYQ (00_scope.md R18). Every weight is a finite number in [0, 1] (for a NYQ that a legal build has). -/
def Obligations.FilterWeightsHaveTheirSupport : Prop :=
  ∀ (p : Params) (nyq c k i : Nat), k < c →
    iStart p nyq c k ≤ nyq ∧ iCenter p nyq c k ≤ nyq ∧ iEnd p nyq c k ≤ nyq ∧
    weightOf p nyq c k (iCenter p nyq c k) = numOne p.numFmt ∧
    (iStart p nyq c k ≤ iCenter p nyq c k → i < iStart p nyq c k →
      weightOf p nyq c k i = zeroNum p.numFmt false) ∧
    (max (iEnd p nyq c k) (iCenter p nyq c k + 1) ≤ i → weightOf p nyq c k i = zeroNum p.numFmt false) ∧
    (p.legal = true → nyq ≤ p.fMax / 2 →
      ∃ (m : Nat) (e : Int), unpack p.numFmt (weightOf p nyq c k i) = .fin false m e ∧
        (m : ℚ) * (2 : ℚ) ^ e ≤ 1)

/-! ## Numbers -/

/-- 00_scope.md R18: `floorIdx` is 0 for NaN and below 0, and otherwise the floor of the number, but at most L. -/
def Obligations.FloorIndexIsTheClampedFloor : Prop :=
  ∀ (f : NumFmt) (w : Word) (l : Nat),
    (unpack f w = .nan → floorIdx f w l = 0) ∧
    (unpack f w = .inf true → floorIdx f w l = 0) ∧
    (unpack f w = .inf false → floorIdx f w l = l) ∧
    (∀ m e, unpack f w = .fin true m e → floorIdx f w l = 0) ∧
    (∀ m e, unpack f w = .fin false m e → floorIdx f w l = min ⌊(m : ℚ) * (2 : ℚ) ^ e⌋₊ l)

/-- 00_scope.md R13: the rounding every operation ends in is to nearest, ties to even: no number of the format is nearer to
the exact value than the result, and where another one is as near, the result's last significand bit is 0. It is an infinity
exactly from the value midway between the greatest number and the next power of two on, which is IEEE 754's rule (log 14),
and never a NaN. -/
def Obligations.RoundingIsToNearestTiesToEven : Prop :=
  ∀ (f : NumFmt) (neg : Bool) (n d : Nat) (e : Int), 0 < d →
    (roundNum f neg n d e = infNum f neg ↔
      (match f with
        | .binary32 => ((2 : ℚ) ^ 25 - 1) * 2 ^ 103
        | .binary64 => ((2 : ℚ) ^ 54 - 1) * 2 ^ 970) ≤ (n : ℚ) / (d : ℚ) * (2 : ℚ) ^ e) ∧
    (roundNum f neg n d e ≠ infNum f neg → ∃ m e', unpack f (roundNum f neg n d e) = .fin neg m e') ∧
    ∀ (neg' : Bool) (m : Nat) (e' : Int), unpack f (roundNum f neg n d e) = .fin neg' m e' →
      neg' = neg ∧
      ∀ (w : Word) (k : Nat) (g : Int), unpack f w = .fin neg k g →
        |(m : ℚ) * (2 : ℚ) ^ e' - (n : ℚ) / (d : ℚ) * (2 : ℚ) ^ e| ≤
          |(k : ℚ) * (2 : ℚ) ^ g - (n : ℚ) / (d : ℚ) * (2 : ℚ) ^ e| ∧
        (|(m : ℚ) * (2 : ℚ) ^ e' - (n : ℚ) / (d : ℚ) * (2 : ℚ) ^ e| =
          |(k : ℚ) * (2 : ℚ) ^ g - (n : ℚ) / (d : ℚ) * (2 : ℚ) ^ e| →
          (m : ℚ) * (2 : ℚ) ^ e' ≠ (k : ℚ) * (2 : ℚ) ^ g → m % 2 = 0)

/-- 00_scope.md R13: the exact value each basic operation rounds, on finite operands that leave no zero or NaN aside; that
`fneg` flips the sign bit of everything but a NaN and that `num(n)` is exact. R19: what `isFinite` is. The sign of an exact
zero sum is IEEE 754's (log 14). -/
def Obligations.BasicOperationsRoundTheExactResult : Prop :=
  ∀ f : NumFmt,
    (∀ (a b : Word) (sa sb : Bool) (ma mb : Nat) (ea eb : Int),
      unpack f a = .fin sa ma ea → unpack f b = .fin sb mb eb →
      fmul f a b = roundNum f (sa ^^ sb) (ma * mb) 1 (ea + eb) ∧
      (mb ≠ 0 → fdiv f a b = roundNum f (sa ^^ sb) ma mb (ea - eb)) ∧
      (∀ v : Int,
        (v : ℚ) * (2 : ℚ) ^ (min ea eb) =
          (if sa then -1 else 1) * (ma : ℚ) * (2 : ℚ) ^ ea + (if sb then -1 else 1) * (mb : ℚ) * (2 : ℚ) ^ eb →
        fadd f a b =
          if v = 0 then zeroNum f (sa && sb) else roundNum f (decide (v < 0)) v.natAbs 1 (min ea eb)) ∧
      (∀ v : Int,
        (v : ℚ) * (2 : ℚ) ^ (min ea eb) =
          (if sa then -1 else 1) * (ma : ℚ) * (2 : ℚ) ^ ea - (if sb then -1 else 1) * (mb : ℚ) * (2 : ℚ) ^ eb →
        fsub f a b =
          if v = 0 then zeroNum f (sa && !sb) else roundNum f (decide (v < 0)) v.natAbs 1 (min ea eb)) ∧
      (sa = false → ma ≠ 0 → ∃ (r : Nat) (g : Int),
        fsqrt f a = roundNum f false r 1 g ∧
        ((r % 2 = 0 ∧ ((r : ℚ) * (2 : ℚ) ^ g) ^ 2 = (ma : ℚ) * (2 : ℚ) ^ ea) ∨
         (r % 2 = 1 ∧ (((r - 1 : Nat) : ℚ) * (2 : ℚ) ^ g) ^ 2 < (ma : ℚ) * (2 : ℚ) ^ ea ∧
          (ma : ℚ) * (2 : ℚ) ^ ea < (((r + 1 : Nat) : ℚ) * (2 : ℚ) ^ g) ^ 2)) ∧
        2 ^ (fracBits f + 4) ≤ r)) ∧
    (∀ a : Word, unpack f a ≠ .nan →
      fneg f a =
        match f with
        | .binary32 => (a ^^^ 0x0000000080000000) &&& 0x00000000FFFFFFFF
        | .binary64 => a ^^^ 0x8000000000000000) ∧
    (∀ (a : Word) (sgn : Bool) (m : Nat) (e : Int),
      unpack f a = .fin sgn m e → unpack f (fneg f a) = .fin (!sgn) m e) ∧
    (∀ (a : Word) (sgn : Bool), unpack f a = .inf sgn → unpack f (fneg f a) = .inf (!sgn)) ∧
    (∀ n : Nat, n < 2 ^ 24 → ∃ (m : Nat) (e : Int),
      unpack f (num f n) = .fin false m e ∧ (m : ℚ) * (2 : ℚ) ^ e = (n : ℚ)) ∧
    (∀ a : Word, isFinite f a = true ↔ unpack f a ≠ .nan ∧ unpack f a ≠ .inf false ∧ unpack f a ≠ .inf true)

/-- 00_scope.md R13: the special values of the basic operations, and that every NaN they return is QNAN. That this covers
`fneg` of a NaN is the model's reading (DEDUCED, log 14); the infinities and zeros of the last six clauses, which R13 does
not write out, are IEEE 754's (PRESUMED, log 14). -/
def Obligations.SpecialValuesAndCanonicalNaN : Prop :=
  ∀ (f : NumFmt) (a b : Word),
    (∀ r ∈ [fadd f a b, fsub f a b, fmul f a b, fdiv f a b, fsqrt f a, fneg f a],
      unpack f r = .nan → r = qnan f) ∧
    (unpack f a = .nan ∨ unpack f b = .nan →
      fadd f a b = qnan f ∧ fsub f a b = qnan f ∧ fmul f a b = qnan f ∧ fdiv f a b = qnan f) ∧
    (unpack f a = .nan → fsqrt f a = qnan f ∧ fneg f a = qnan f) ∧
    (∀ sgn, unpack f a = .inf sgn → unpack f b = .inf (!sgn) → fadd f a b = qnan f) ∧
    (∀ sgn, unpack f a = .inf sgn → unpack f b = .inf sgn → fsub f a b = qnan f) ∧
    (∀ sa sb e, unpack f a = .fin sa 0 e → unpack f b = .inf sb →
      fmul f a b = qnan f ∧ fmul f b a = qnan f) ∧
    (unpack f a = .inf true → fsqrt f a = qnan f) ∧
    (∀ m e, unpack f a = .fin true m e → m ≠ 0 → fsqrt f a = qnan f) ∧
    (∀ sgn m e, unpack f a = .fin sgn m e → fadd f a (fneg f a) = zeroNum f false) ∧
    fadd f (zeroNum f false) (zeroNum f true) = zeroNum f false ∧
    fadd f (zeroNum f true) (zeroNum f true) = zeroNum f true ∧
    (∀ sa sb m e, unpack f a = .inf sa → unpack f b = .fin sb m e →
      fadd f a b = infNum f sa ∧ fadd f b a = infNum f sa ∧
      fsub f a b = infNum f sa ∧ fsub f b a = infNum f (!sa) ∧
      (m ≠ 0 → fmul f a b = infNum f (sa ^^ sb) ∧ fmul f b a = infNum f (sa ^^ sb)) ∧
      fdiv f a b = infNum f (sa ^^ sb) ∧ fdiv f b a = zeroNum f (sa ^^ sb)) ∧
    (∀ sa sb, unpack f a = .inf sa → unpack f b = .inf sb →
      (sa = sb → fadd f a b = infNum f sa) ∧ (sa ≠ sb → fsub f a b = infNum f sa) ∧
      fmul f a b = infNum f (sa ^^ sb) ∧ fdiv f a b = qnan f) ∧
    (∀ sa sb m ea eb, unpack f a = .fin sa m ea → unpack f b = .fin sb 0 eb →
      fdiv f a b = if m = 0 then qnan f else infNum f (sa ^^ sb)) ∧
    (unpack f a = .inf false → fsqrt f a = infNum f false) ∧
    (∀ sgn e, unpack f a = .fin sgn 0 e → fsqrt f a = zeroNum f sgn) ∧
    fadd f (zeroNum f false) (zeroNum f false) = zeroNum f false

/-- 00_scope.md R15: the required exact cases of `NUMF`, for every build; that every NaN of these primitives is QNAN (R13);
and the exact values of `cosT` and `sinT` in the reference instantiation that R16 writes out. -/
def Obligations.TranscendentalExactCases : Prop :=
  ∀ (p : Params) (d : Nat) (x : Word),
    cosT p 0 d = numOne p.numFmt ∧ sinT p 0 d = zeroNum p.numFmt false ∧
    lnF p (numOne p.numFmt) = zeroNum p.numFmt false ∧
    expF p (zeroNum p.numFmt false) = numOne p.numFmt ∧
    log10F p (zeroNum p.numFmt false) = infNum p.numFmt true ∧
    log10F p (zeroNum p.numFmt true) = infNum p.numFmt true ∧
    (∀ m e, unpack p.numFmt x = .fin true m e → m ≠ 0 → log10F p x = qnan p.numFmt) ∧
    log10F p (infNum p.numFmt true) = qnan p.numFmt ∧
    log10F p (infNum p.numFmt false) = infNum p.numFmt false ∧
    (unpack p.numFmt x = .nan → log10F p x = qnan p.numFmt) ∧
    log10F p (numOne p.numFmt) = zeroNum p.numFmt false ∧
    (∀ j, ∀ r ∈ [cosT p j d, sinT p j d, lnF p x, expF p x, log10F p x],
      unpack p.numFmt r = .nan → r = qnan p.numFmt) ∧
    (p.numf = .reference → ∀ j, j < d →
      (4 * j = d → cosT p j d = zeroNum p.numFmt false ∧ sinT p j d = numOne p.numFmt) ∧
      (2 * j = d → cosT p j d = fneg p.numFmt (numOne p.numFmt) ∧ sinT p j d = zeroNum p.numFmt false) ∧
      (4 * j = 3 * d → cosT p j d = zeroNum p.numFmt false ∧ sinT p j d = fneg p.numFmt (numOne p.numFmt)) ∧
      (6 * j = d ∨ 6 * j = 5 * d → cosT p j d = numHalf p.numFmt) ∧
      (3 * j = d ∨ 3 * j = 2 * d → cosT p j d = fneg p.numFmt (numHalf p.numFmt)))

/-- 00_scope.md R17: the constants' encodings, each the `NUM_FMT` value nearest to its decimal. -/
def Obligations.ConstantsAreNearestToTheirDecimals : Prop :=
  numKMel .binary64 = 0x40919C0ABB44E50C ∧ num700 .binary64 = 0x4085E00000000000 ∧
  num20 .binary64 = 0x4034000000000000 ∧ numHalf .binary64 = 0x3FE0000000000000 ∧
  numOne .binary64 = 0x3FF0000000000000 ∧ num097 .binary64 = 0x3FEF0A3D70A3D70A ∧
  numKMel .binary32 = 0x448CE056 ∧ num700 .binary32 = 0x442F0000 ∧ num20 .binary32 = 0x41A00000 ∧
  numHalf .binary32 = 0x3F000000 ∧ numOne .binary32 = 0x3F800000 ∧ num097 .binary32 = 0x3F7851EC ∧
  ∀ f ∈ [NumFmt.binary32, NumFmt.binary64],
    numKMel f = roundNum f false 112701048 100000 0 ∧ num700 f = roundNum f false 700 1 0 ∧
    num20 f = roundNum f false 20 1 0 ∧ numHalf f = roundNum f false 1 2 0 ∧
    numOne f = roundNum f false 1 1 0 ∧ num097 f = roundNum f false 97 100 0

/-! ## Interrupt -/

/-- 60_exceptions.md R210: the level of `irq`, and what clears or masks it. -/
def Obligations.InterruptLevel : Prop :=
  ∀ s : State,
    s.irq = (s.irqEn && (s.status.done || s.status.err)) ∧
    (s.status.err = false → (s.hostWrite 0x00000009 0x2).irq = false) ∧
    (s.hostWrite 0x0000000A 0x0).irq = false ∧
    (∀ w, s.status.err = false → s.status.busy = false → (s.hostWrite 0x00000008 w).irq = false) ∧
    (∀ t, exec .clearStatus s = .next t → t.status.err = false ∧ t.status.done = true ∧ t.irq = s.irqEn) ∧
    (∀ t, exec .softReset s = .next t → t.irq = false) ∧
    s.resetPin.irq = false

/-! ## Invariants -/

/-- The invariants of Safety.lean hold in the reset state of every legal build. -/
def Obligations.ResetHasTheInvariants : Prop :=
  ∀ p : Params, (State.resetOf p).commandInv ∧ (State.resetOf p).errorInv ∧ (State.resetOf p).memInv ∧
    (State.resetOf p).mapInv ∧ (State.resetOf p).descInv ∧ (State.resetOf p).numInv ∧
    State.reset.params.legal = true

/-- 10_state.md R38, R39, R58, 42_control.md R180: BUSY and PENDING agree, DONE is 0 while busy, and under the error lock
only CLEAR_STATUS and SOFT_RESET are pending: every step keeps this, and no step of such a state is a fault or a
refusal. -/
def Obligations.StepKeepsTheCommandInvariant : Prop :=
  ∀ s : State, s.commandInv → ∃ t, step s = .next t ∧ t.commandInv

/-- 10_state.md R40, 60_exceptions.md R200, R208: every step keeps ERRCODE and ERR_INFO 0 without an error, and a code of
the table with one. -/
def Obligations.StepKeepsTheErrorInvariant : Prop :=
  ∀ s t : State, s.errorInv → step s = .next t → t.errorInv

/-- 20_memory.md R75, R77: every step keeps the memory within the address map. The canonical form that it keeps too
(`memInv`) is the model's own, chosen by log 1. -/
def Obligations.StepKeepsTheMemoryInMap : Prop :=
  ∀ s t : State, s.memInv → s.mapInv → step s = .next t → t.memInv ∧ t.mapInv

/-- 10_state.md R50, R56: every step keeps "each valid descriptor describes entries that hold values", so that no command
reads an entry without one. -/
def Obligations.StepKeepsTheDescriptorInvariant : Prop :=
  ∀ s t : State, s.descInv → step s = .next t → t.descInv

/-- 20_memory.md R72: every step keeps the upper half of every `Num` and index word 0 with binary32. -/
def Obligations.StepKeepsNumWordsInFormat : Prop :=
  ∀ s t : State, s.numInv → step s = .next t → t.numInv
end

