-- ==== Sys2Proof/Laws/Memory.lean ====
section
/-! SUPPORT. What the memory operations do: reading after filling, and that they keep the canonical form. -/

namespace Sys2Proof.Machine

@[simp] theorem Mem.read_nil (a : Nat) : Mem.read [] a = none := rfl

theorem Mem.read_cons (k : Nat) (w : Word) (t : Mem) (a : Nat) :
    Mem.read ((k, w) :: t) a = if k = a then some w else Mem.read t a := rfl

theorem Mem.read_append (m t : Mem) (a : Nat) :
    Mem.read (m ++ t) a = (Mem.read m a).or (Mem.read t a) := by
  induction m with
  | nil => rfl
  | cons x m ih =>
    obtain ⟨k, w⟩ := x
    by_cases h : k = a <;> simp [Mem.read_cons, h, ih]

theorem Mem.read_filter_of_true {m : Mem} {p : Nat × Word → Bool} {a : Nat}
    (h : ∀ w, p (a, w) = true) : Mem.read (m.filter p) a = Mem.read m a := by
  induction m with
  | nil => rfl
  | cons x m ih =>
    obtain ⟨k, w⟩ := x
    by_cases hk : k = a
    · subst hk; simp [h, Mem.read_cons]
    · by_cases hp : p (k, w) = true <;> simp [hp, Mem.read_cons, hk, ih]

theorem Mem.read_filter_of_false {m : Mem} {p : Nat × Word → Bool} {a : Nat}
    (h : ∀ w, p (a, w) = false) : Mem.read (m.filter p) a = none := by
  induction m with
  | nil => rfl
  | cons x m ih =>
    obtain ⟨k, w⟩ := x
    by_cases hk : k = a
    · subst hk; simp [h, ih]
    · by_cases hp : p (k, w) = true <;> simp [hp, Mem.read_cons, hk, ih]

theorem Mem.read_run (base n : Nat) (v : Nat → Word) (a : Nat) :
    Mem.read ((List.range n).map (fun i => (base + i, v i))) a =
      if base ≤ a ∧ a < base + n then some (v (a - base)) else none := by
  induction n with
  | zero => simp
  | succ n ih =>
    rw [List.range_succ, List.map_append, Mem.read_append, ih]
    by_cases h1 : base ≤ a ∧ a < base + n
    · have h2 : base ≤ a ∧ a < base + (n + 1) := by omega
      simp [h1, h2]
    · by_cases h3 : a = base + n
      · subst h3; simp [Mem.read_cons]
      · have h2 : ¬ (base ≤ a ∧ a < base + (n + 1)) := by omega
        have h4 : ¬ base + n = a := by omega
        simp [h1, h2, Mem.read_cons, h4]

/-- Reading after filling: the new value inside, the old one outside. -/
theorem Mem.read_fill (m : Mem) (base n : Nat) (v : Nat → Word) (a : Nat) :
    (m.fill base n v).read a =
      if base ≤ a ∧ a < base + n then some (v (a - base)) else m.read a := by
  unfold Mem.fill
  rw [Mem.read_append, Mem.read_append, Mem.read_run]
  by_cases h1 : a < base
  · have h2 : ¬ (base ≤ a ∧ a < base + n) := by omega
    rw [Mem.read_filter_of_true (by simp [h1]), Mem.read_filter_of_false (a := a) (by simp; omega)]
    simp [h2]
  · rw [Mem.read_filter_of_false (a := a) (by simpa using h1)]
    by_cases h2 : a < base + n
    · have h3 : base ≤ a ∧ a < base + n := by omega
      simp [h3]
    · have h3 : ¬ (base ≤ a ∧ a < base + n) := by omega
      rw [Mem.read_filter_of_true (by simp; omega)]
      simp [h3]

theorem Mem.read_fill_of_mem {m : Mem} {base n : Nat} {v : Nat → Word} {i : Nat} (h : i < n) :
    (m.fill base n v).read (base + i) = some (v i) := by
  rw [Mem.read_fill, if_pos ⟨by omega, by omega⟩]; simp

theorem Mem.read_fill_of_not_mem {m : Mem} {base n : Nat} {v : Nat → Word} {a : Nat}
    (h : a < base ∨ base + n ≤ a) : (m.fill base n v).read a = m.read a := by
  rw [Mem.read_fill, if_neg (by omega)]

/-- An entry that holds a value still holds one after filling. -/
theorem Mem.isSome_read_fill {m : Mem} {base n : Nat} {v : Nat → Word} {a : Nat}
    (h : (m.read a).isSome = true) : ((m.fill base n v).read a).isSome = true := by
  rw [Mem.read_fill]; split <;> simp [h]

/-- Reading after one write: the new word at its address, the old one elsewhere. -/
theorem Mem.read_write (m : Mem) (a b : Nat) (w : Word) :
    (m.write a w).read b = if b = a then some w else m.read b := by
  rw [Mem.write, Mem.read_fill]
  by_cases h : b = a
  · subst h; simp
  · rw [if_neg h, if_neg (by omega)]

theorem Buffer.fbw_base (k : Nat) : (Buffer.fbw k).base = (0x80 + k) * 2 ^ 24 := rfl

/-- Reading a written row of the weight matrix. -/
theorem Mem.read_fillRows {m : Mem} {n : Nat} {v : Nat → Nat → Word} (hn : n ≤ 2 ^ 24) (c : Nat) :
    ∀ k i, k < c → i < n → (m.fillRows n v c).read ((Buffer.fbw k).addr i) = some (v k i) := by
  induction c with
  | zero => intro k i hk; omega
  | succ c ih =>
    intro k i hk hi
    by_cases h : k = c
    · subst h; exact Mem.read_fill_of_mem hi
    · have hk' : k < c := by omega
      rw [Mem.fillRows, Mem.read_fill_of_not_mem, ih k i hk' hi]
      left
      simp only [Buffer.addr, Buffer.fbw_base]
      omega

/-- Reading outside the written rows. -/
theorem Mem.read_fillRows_of_not_mem {m : Mem} {n : Nat} {v : Nat → Nat → Word} {a : Nat} (c : Nat)
    (h : ∀ k i, k < c → i < n → a ≠ (Buffer.fbw k).addr i) :
    (m.fillRows n v c).read a = m.read a := by
  induction c with
  | zero => rfl
  | succ c ih =>
    rw [Mem.fillRows, Mem.read_fill, if_neg, ih (fun k i hk hi => h k i (by omega) hi)]
    rintro ⟨h1, h2⟩
    exact h c (a - (Buffer.fbw c).base) (by omega) (by omega) (by simp only [Buffer.addr]; omega)

/-- Two buffers have two regions (20_memory.md R75). -/
theorem Buffer.region_injective {b b' : Buffer} (h : b.region = b'.region) : b = b' := by
  cases b <;> cases b' <;> simp_all [Buffer.region] <;> omega

/-- Entries of two buffers never share a word address. -/
theorem Buffer.addr_ne {b b' : Buffer} (h : b' ≠ b) {i j : Nat} (hi : i < 2 ^ 24) (hj : j < 2 ^ 24) :
    b'.addr i ≠ b.addr j := by
  have hr : b'.region ≠ b.region := fun e => h (Buffer.region_injective e)
  simp only [Buffer.addr, Buffer.base]
  omega

/-- Filling one buffer leaves every entry of the others. -/
theorem Mem.read_fill_other {m : Mem} {b b' : Buffer} {n i : Nat} {v : Nat → Word} (h : b' ≠ b)
    (hn : n ≤ 2 ^ 24) (hi : i < 2 ^ 24) : (m.fill b.base n v).read (b'.addr i) = m.read (b'.addr i) := by
  rw [Mem.read_fill, if_neg]
  rintro ⟨h1, h2⟩
  refine Buffer.addr_ne h hi (j := b'.addr i - b.base) (by omega) ?_
  simp only [Buffer.addr] at h1 ⊢
  omega

/-- Filling rows of the weight matrix leaves every entry that is in none of them. -/
theorem Mem.read_fillRows_other {m : Mem} {b' : Buffer} {n c i : Nat} {v : Nat → Nat → Word}
    (h : ∀ k, k < c → b' ≠ .fbw k) (hn : n ≤ 2 ^ 24) (hi : i < 2 ^ 24) :
    (m.fillRows n v c).read (b'.addr i) = m.read (b'.addr i) :=
  Mem.read_fillRows_of_not_mem c fun k _ hk hj => Buffer.addr_ne (h k hk) hi (by omega)

theorem Mem.isSome_read_fillRows {m : Mem} {n : Nat} {v : Nat → Nat → Word} {a : Nat} (c : Nat)
    (h : (m.read a).isSome = true) : ((m.fillRows n v c).read a).isSome = true := by
  induction c with
  | zero => exact h
  | succ c ih => exact Mem.isSome_read_fill ih

/-- The canonical form, as a pairwise order of the addresses. -/
theorem Mem.wf_iff (m : Mem) : m.wf = true ↔ m.Pairwise (fun x y => x.1 < y.1) := by
  induction m with
  | nil => simp [Mem.wf]
  | cons x m ih =>
    obtain ⟨k, w⟩ := x
    cases m with
    | nil => simp [Mem.wf]
    | cons y m =>
      obtain ⟨k', w'⟩ := y
      rw [Mem.wf, Bool.and_eq_true, ih, List.pairwise_cons (a := (k, w))]
      simp only [decide_eq_true_eq]
      constructor
      · rintro ⟨h1, h2⟩
        refine ⟨?_, h2⟩
        intro z hz
        rcases List.mem_cons.mp hz with rfl | hz
        · exact h1
        · exact Nat.lt_trans h1 ((List.pairwise_cons.mp h2).1 z hz)
      · rintro ⟨h1, h2⟩
        exact ⟨h1 _ (List.mem_cons_self ..), h2⟩

/-- Filling keeps the canonical form. -/
theorem Mem.wf_fill {m : Mem} (h : m.wf = true) (base n : Nat) (v : Nat → Word) :
    (m.fill base n v).wf = true := by
  rw [Mem.wf_iff] at h ⊢
  have hrun : ((List.range n).map (fun i => (base + i, v i))).Pairwise
      (fun x y : Nat × Word => x.1 < y.1) := by
    rw [List.pairwise_map]
    exact List.pairwise_lt_range.imp (fun h => by simpa using h)
  have hlo : ∀ x ∈ m.filter (fun x => decide (x.1 < base)), x.1 < base := by
    intro x hx; simpa using (List.mem_filter.mp hx).2
  have hhi : ∀ x ∈ m.filter (fun x => decide (base + n ≤ x.1)), base + n ≤ x.1 := by
    intro x hx; simpa using (List.mem_filter.mp hx).2
  have hmid : ∀ x ∈ (List.range n).map (fun i => (base + i, v i)), base ≤ x.1 ∧ x.1 < base + n := by
    intro x hx
    obtain ⟨i, hi, rfl⟩ := List.mem_map.mp hx
    have := List.mem_range.mp hi
    exact ⟨by simp, by simpa using this⟩
  unfold Mem.fill
  rw [List.pairwise_append, List.pairwise_append]
  refine ⟨⟨h.filter _, hrun, ?_⟩, h.filter _, ?_⟩
  · intro x hx y hy
    have := hlo x hx; have := hmid y hy; omega
  · intro x hx y hy
    have h2 := hhi y hy
    rcases List.mem_append.mp hx with hx | hx
    · have := hlo x hx; omega
    · have := hmid x hx; omega

/-- Writing keeps the canonical form. -/
theorem Mem.wf_write {m : Mem} (h : m.wf = true) (a : Nat) (w : Word) : (m.write a w).wf = true :=
  Mem.wf_fill h a 1 _

/-- Filling rows keeps the canonical form. -/
theorem Mem.wf_fillRows {m : Mem} (h : m.wf = true) (n : Nat) (v : Nat → Nat → Word) (c : Nat) :
    (m.fillRows n v c).wf = true := by
  induction c with
  | zero => exact h
  | succ c ih => exact Mem.wf_fill ih ..

/-- The canonical form determines the list: memories that read alike are equal. -/
theorem Mem.ext_of_wf {m t : Mem} (hm : m.wf = true) (ht : t.wf = true)
    (h : ∀ a, m.read a = t.read a) : m = t := by
  have key : ∀ (m : Mem) (k : Nat), (∀ x ∈ m, k < x.1) → m.read k = none := by
    intro m k
    induction m with
    | nil => intro _; rfl
    | cons x m ih =>
      intro hx
      have h1 := hx x (List.mem_cons_self ..)
      rw [show x = (x.1, x.2) from rfl, Mem.read_cons, if_neg (by omega)]
      exact ih (fun y hy => hx y (List.mem_cons_of_mem _ hy))
  rw [Mem.wf_iff] at hm ht
  induction m generalizing t with
  | nil =>
    cases t with
    | nil => rfl
    | cons y t => have := h y.1; rw [show y = (y.1, y.2) from rfl, Mem.read_cons] at this; simp at this
  | cons x m ih =>
    obtain ⟨k, w⟩ := x
    obtain ⟨hm1, hm2⟩ := List.pairwise_cons.mp hm
    cases t with
    | nil => have := h k; simp [Mem.read_cons] at this
    | cons y t =>
      obtain ⟨k', w'⟩ := y
      obtain ⟨ht1, ht2⟩ := List.pairwise_cons.mp ht
      have hk : k = k' := by
        rcases Nat.lt_trichotomy k k' with hlt | heq | hgt
        · have h1 := h k
          rw [Mem.read_cons, if_pos rfl, Mem.read_cons, if_neg (by omega),
            key t k (fun z hz => Nat.lt_trans hlt (ht1 z hz))] at h1
          cases h1
        · exact heq
        · have h1 := h k'
          rw [Mem.read_cons, if_neg (by omega), Mem.read_cons, if_pos rfl,
            key m k' (fun z hz => Nat.lt_trans hgt (hm1 z hz))] at h1
          cases h1
      subst hk
      have hw : w = w' := by have := h k; simpa [Mem.read_cons] using this
      subst hw
      congr 1
      apply ih hm2 ht2
      intro a
      have h1 := h a
      rw [Mem.read_cons, Mem.read_cons] at h1
      by_cases ha : k = a
      · subst ha; rw [key m k hm1, key t k ht1]
      · simpa [ha] using h1

end Sys2Proof.Machine
end

