-- ==== Sys2Proof/Laws/Num.lean ====
section
/-! SUPPORT. What the encodings of numbers stand for, and that every basic operation answers a word of its format
(20_memory.md R72). -/

namespace Sys2Proof.Machine

/-- The number of a word built from a sign and the bits below it, up to infinity's (00_scope.md R12). -/
theorem unpack_signed (f : NumFmt) (neg : Bool) (n : Nat) (h : n ≤ infBits f) :
    unpack f (signed f neg n) =
      if n = infBits f then .inf neg
      else if n < 2 ^ fracBits f then .fin neg n (minExp f)
      else .fin neg (2 ^ fracBits f + n % 2 ^ fracBits f) (minExp f + (n / 2 ^ fracBits f - 1 : Nat)) := by
  have hw : (signed f neg n).toNat = (if neg then 2 ^ (expBits f + fracBits f) else 0) + n := by
    unfold signed; rw [BitVec.toNat_ofNat, Nat.mod_eq_of_lt]
    cases f <;> cases neg <;> simp [infBits, expBits, fracBits] at h ⊢ <;> omega
  have h1 : (signed f neg n).toNat % 2 ^ fracBits f = n % 2 ^ fracBits f := by
    rw [hw]; cases f <;> cases neg <;> simp [expBits, fracBits] <;> omega
  have h2 : (signed f neg n).toNat / 2 ^ fracBits f % 2 ^ expBits f = n / 2 ^ fracBits f := by
    rw [hw]; cases f <;> cases neg <;> simp [infBits, expBits, fracBits] at h ⊢ <;> omega
  have h3 : ((signed f neg n).toNat / 2 ^ (expBits f + fracBits f) % 2 == 1) = neg := by
    rw [hw]; cases f <;> cases neg <;> simp [infBits, expBits, fracBits] at h ⊢ <;> omega
  unfold unpack; simp only [h1, h2, h3]
  have hP : 0 < 2 ^ fracBits f := Nat.two_pow_pos _
  have hE : 2 ≤ 2 ^ expBits f := by cases f <;> decide
  unfold infBits at h ⊢
  generalize 2 ^ fracBits f = P at *
  generalize 2 ^ expBits f = E at *
  by_cases a : n = (E - 1) * P
  · rw [if_pos (by rw [a, Nat.mul_div_cancel _ hP]), if_pos (by rw [a, Nat.mul_mod_left]), if_pos a]
  · have : n / P < E - 1 := (Nat.div_lt_iff_lt_mul hP).2 (by omega)
    rw [if_neg (by omega), if_neg a]
    by_cases b : n < P
    · rw [if_pos (Nat.div_eq_of_lt b), if_pos b, Nat.mod_eq_of_lt b]
    · rw [if_neg (by rw [Nat.div_eq_zero_iff]; omega), if_neg b]

@[simp] theorem unpack_zeroNum (f : NumFmt) (neg : Bool) : unpack f (zeroNum f neg) = .fin neg 0 (minExp f) := by
  cases f <;> cases neg <;> decide

@[simp] theorem unpack_infNum (f : NumFmt) (neg : Bool) : unpack f (infNum f neg) = .inf neg := by
  cases f <;> cases neg <;> decide

@[simp] theorem unpack_qnan (f : NumFmt) : unpack f (qnan f) = .nan := by cases f <;> decide

/-- A rounded number is never a NaN. -/
theorem unpack_roundNum_ne_nan (f : NumFmt) (neg : Bool) (n d : Nat) (e : Int) :
    unpack f (roundNum f neg n d e) ≠ .nan := by
  have key : ∀ k, k ≤ infBits f → unpack f (signed f neg k) ≠ .nan := by
    intro k hk; rw [unpack_signed f neg k hk]; split
    · simp
    · split <;> simp
  unfold roundNum; split
  · exact key _ (Nat.zero_le _)
  · exact key _ (Nat.min_le_right _ _)

/-- With binary32 a word is of the format exactly when its upper half is 0. -/
theorem truncNum_binary32_iff (w : Word) : truncNum .binary32 w = w ↔ w.toNat < 2 ^ 32 := by
  have e : (truncNum .binary32 w).toNat = w.toNat % 2 ^ 32 := by
    simp only [truncNum, BitVec.toNat_and]
    rw [show (0x00000000FFFFFFFF#64).toNat = 2 ^ 32 - 1 from rfl, Nat.and_two_pow_sub_one_eq_mod]
  constructor
  · intro h; rw [← h, e]; exact Nat.mod_lt _ (by decide)
  · intro h; apply BitVec.eq_of_toNat_eq; rw [e, Nat.mod_eq_of_lt h]

@[simp] theorem truncNum_truncNum (f : NumFmt) (w : Word) : truncNum f (truncNum f w) = truncNum f w := by
  cases f <;> simp [truncNum, BitVec.and_assoc]

theorem truncNum_signed (f : NumFmt) (neg : Bool) (n : Nat) (h : n ≤ infBits f) :
    truncNum f (signed f neg n) = signed f neg n := by
  cases f
  · rw [truncNum_binary32_iff]; simp [infBits, expBits, fracBits] at h
    cases neg <;> simp [signed, expBits, fracBits] <;> omega
  · rfl

@[simp] theorem truncNum_zeroNum (f : NumFmt) (neg : Bool) : truncNum f (zeroNum f neg) = zeroNum f neg :=
  truncNum_signed _ _ _ (Nat.zero_le _)

@[simp] theorem truncNum_infNum (f : NumFmt) (neg : Bool) : truncNum f (infNum f neg) = infNum f neg :=
  truncNum_signed _ _ _ (Nat.le_refl _)

@[simp] theorem truncNum_qnan (f : NumFmt) : truncNum f (qnan f) = qnan f := by cases f <;> rfl

@[simp] theorem truncNum_numOne (f : NumFmt) : truncNum f (numOne f) = numOne f := by cases f <;> rfl

@[simp] theorem truncNum_roundNum (f : NumFmt) (neg : Bool) (n d : Nat) (e : Int) :
    truncNum f (roundNum f neg n d e) = roundNum f neg n d e := by
  unfold roundNum; split
  · exact truncNum_zeroNum _ _
  · exact truncNum_signed _ _ _ (Nat.min_le_right _ _)

/-- One call of `sqrtBits` brackets the root, if the bits still to come reach beyond it. -/
theorem sqrtBits_spec (n b r : Nat) (h1 : r * r ≤ n) (h2 : n < (r + 2 ^ b) * (r + 2 ^ b)) :
    sqrtBits n b r * sqrtBits n b r ≤ n ∧ n < (sqrtBits n b r + 1) * (sqrtBits n b r + 1) := by
  induction b generalizing r with
  | zero => exact ⟨h1, by simpa [sqrtBits] using h2⟩
  | succ b ih =>
    unfold sqrtBits
    split
    · exact ih _ ‹_› (by rwa [pow_succ, mul_two, ← Nat.add_assoc] at h2)
    · exact ih _ h1 (by omega)

/-- `isqrt n` is the greatest integer whose square is at most n. -/
theorem isqrt_spec (n : Nat) : isqrt n * isqrt n ≤ n ∧ n < (isqrt n + 1) * (isqrt n + 1) := by
  refine sqrtBits_spec n _ 0 (by simp) ?_
  rw [Nat.zero_add, ← pow_add]
  exact Nat.lt_log2_self.trans_le (Nat.pow_le_pow_right (by omega) (by omega))

theorem floorIdx_le (f : NumFmt) (w : Word) (l : Nat) : floorIdx f w l ≤ l := by
  unfold floorIdx; split <;> (try split) <;> simp

end Sys2Proof.Machine
end

