-- ==== Sys2Proof/Laws/State.lean ====
section
/-! SUPPORT. One lemma per field per update of State: what each shared operation and each command's body makes of every
field. -/

namespace Sys2Proof.Machine

/-! Filling a buffer changes memory alone. -/

@[simp] theorem State.fillBuffer_params (s : State) (b : Buffer) (n : Nat) (v : Nat → Word) :
    (s.fillBuffer b n v).params = s.params := rfl
@[simp] theorem State.fillBuffer_status (s : State) (b : Buffer) (n : Nat) (v : Nat → Word) :
    (s.fillBuffer b n v).status = s.status := rfl
@[simp] theorem State.fillBuffer_irqEn (s : State) (b : Buffer) (n : Nat) (v : Nat → Word) :
    (s.fillBuffer b n v).irqEn = s.irqEn := rfl
@[simp] theorem State.fillBuffer_errInfo (s : State) (b : Buffer) (n : Nat) (v : Nat → Word) :
    (s.fillBuffer b n v).errInfo = s.errInfo := rfl
@[simp] theorem State.fillBuffer_cfgN (s : State) (b : Buffer) (n : Nat) (v : Nat → Word) :
    (s.fillBuffer b n v).cfgN = s.cfgN := rfl
@[simp] theorem State.fillBuffer_cfgF (s : State) (b : Buffer) (n : Nat) (v : Nat → Word) :
    (s.fillBuffer b n v).cfgF = s.cfgF := rfl
@[simp] theorem State.fillBuffer_cfgC (s : State) (b : Buffer) (n : Nat) (v : Nat → Word) :
    (s.fillBuffer b n v).cfgC = s.cfgC := rfl
@[simp] theorem State.fillBuffer_cfgAlpha (s : State) (b : Buffer) (n : Nat) (v : Nat → Word) :
    (s.fillBuffer b n v).cfgAlpha = s.cfgAlpha := rfl
@[simp] theorem State.fillBuffer_hannDesc (s : State) (b : Buffer) (n : Nat) (v : Nat → Word) :
    (s.fillBuffer b n v).hannDesc = s.hannDesc := rfl
@[simp] theorem State.fillBuffer_fbDesc (s : State) (b : Buffer) (n : Nat) (v : Nat → Word) :
    (s.fillBuffer b n v).fbDesc = s.fbDesc := rfl
@[simp] theorem State.fillBuffer_preDesc (s : State) (b : Buffer) (n : Nat) (v : Nat → Word) :
    (s.fillBuffer b n v).preDesc = s.preDesc := rfl
@[simp] theorem State.fillBuffer_winDesc (s : State) (b : Buffer) (n : Nat) (v : Nat → Word) :
    (s.fillBuffer b n v).winDesc = s.winDesc := rfl
@[simp] theorem State.fillBuffer_dftDesc (s : State) (b : Buffer) (n : Nat) (v : Nat → Word) :
    (s.fillBuffer b n v).dftDesc = s.dftDesc := rfl
@[simp] theorem State.fillBuffer_ampDesc (s : State) (b : Buffer) (n : Nat) (v : Nat → Word) :
    (s.fillBuffer b n v).ampDesc = s.ampDesc := rfl
@[simp] theorem State.fillBuffer_melDesc (s : State) (b : Buffer) (n : Nat) (v : Nat → Word) :
    (s.fillBuffer b n v).melDesc = s.melDesc := rfl
@[simp] theorem State.fillBuffer_logDesc (s : State) (b : Buffer) (n : Nat) (v : Nat → Word) :
    (s.fillBuffer b n v).logDesc = s.logDesc := rfl
@[simp] theorem State.fillBuffer_pending (s : State) (b : Buffer) (n : Nat) (v : Nat → Word) :
    (s.fillBuffer b n v).pending = s.pending := rfl
@[simp] theorem State.fillBuffer_mem (s : State) (b : Buffer) (n : Nat) (v : Nat → Word) :
    (s.fillBuffer b n v).mem = s.mem.fill b.base n v := rfl
@[simp] theorem State.fillBuffer_events (s : State) (b : Buffer) (n : Nat) (v : Nat → Word) :
    (s.fillBuffer b n v).events = s.events := rfl
@[simp] theorem State.fillBuffer_replies (s : State) (b : Buffer) (n : Nat) (v : Nat → Word) :
    (s.fillBuffer b n v).replies = s.replies := rfl
@[simp] theorem State.fillBuffer_latency (s : State) (b : Buffer) (n : Nat) (v : Nat → Word) :
    (s.fillBuffer b n v).latency = s.latency := rfl
@[simp] theorem State.fillBuffer_delay (s : State) (b : Buffer) (n : Nat) (v : Nat → Word) :
    (s.fillBuffer b n v).delay = s.delay := rfl
@[simp] theorem State.fillBuffer_draws (s : State) (b : Buffer) (n : Nat) (v : Nat → Word) :
    (s.fillBuffer b n v).draws = s.draws := rfl

/-! Error-free completion changes STATUS and PENDING. -/

@[simp] theorem State.finish_params (s : State) (op : BitVec 8) :
    (s.finish op).params = s.params := rfl
@[simp] theorem State.finish_status (s : State) (op : BitVec 8) :
    (s.finish op).status = { s.status with done := true, lastop := op, busy := false } := rfl
@[simp] theorem State.finish_irqEn (s : State) (op : BitVec 8) :
    (s.finish op).irqEn = s.irqEn := rfl
@[simp] theorem State.finish_errInfo (s : State) (op : BitVec 8) :
    (s.finish op).errInfo = s.errInfo := rfl
@[simp] theorem State.finish_cfgN (s : State) (op : BitVec 8) :
    (s.finish op).cfgN = s.cfgN := rfl
@[simp] theorem State.finish_cfgF (s : State) (op : BitVec 8) :
    (s.finish op).cfgF = s.cfgF := rfl
@[simp] theorem State.finish_cfgC (s : State) (op : BitVec 8) :
    (s.finish op).cfgC = s.cfgC := rfl
@[simp] theorem State.finish_cfgAlpha (s : State) (op : BitVec 8) :
    (s.finish op).cfgAlpha = s.cfgAlpha := rfl
@[simp] theorem State.finish_hannDesc (s : State) (op : BitVec 8) :
    (s.finish op).hannDesc = s.hannDesc := rfl
@[simp] theorem State.finish_fbDesc (s : State) (op : BitVec 8) :
    (s.finish op).fbDesc = s.fbDesc := rfl
@[simp] theorem State.finish_preDesc (s : State) (op : BitVec 8) :
    (s.finish op).preDesc = s.preDesc := rfl
@[simp] theorem State.finish_winDesc (s : State) (op : BitVec 8) :
    (s.finish op).winDesc = s.winDesc := rfl
@[simp] theorem State.finish_dftDesc (s : State) (op : BitVec 8) :
    (s.finish op).dftDesc = s.dftDesc := rfl
@[simp] theorem State.finish_ampDesc (s : State) (op : BitVec 8) :
    (s.finish op).ampDesc = s.ampDesc := rfl
@[simp] theorem State.finish_melDesc (s : State) (op : BitVec 8) :
    (s.finish op).melDesc = s.melDesc := rfl
@[simp] theorem State.finish_logDesc (s : State) (op : BitVec 8) :
    (s.finish op).logDesc = s.logDesc := rfl
@[simp] theorem State.finish_pending (s : State) (op : BitVec 8) :
    (s.finish op).pending = none := rfl
@[simp] theorem State.finish_mem (s : State) (op : BitVec 8) :
    (s.finish op).mem = s.mem := rfl
@[simp] theorem State.finish_events (s : State) (op : BitVec 8) :
    (s.finish op).events = s.events := rfl
@[simp] theorem State.finish_replies (s : State) (op : BitVec 8) :
    (s.finish op).replies = s.replies := rfl
@[simp] theorem State.finish_latency (s : State) (op : BitVec 8) :
    (s.finish op).latency = s.latency := rfl
@[simp] theorem State.finish_delay (s : State) (op : BitVec 8) :
    (s.finish op).delay = s.delay := rfl
@[simp] theorem State.finish_draws (s : State) (op : BitVec 8) :
    (s.finish op).draws = s.draws := rfl

/-! Error entry changes STATUS, ERR_INFO and PENDING. -/

@[simp] theorem State.errorEntry_params (s : State) (op : BitVec 8) (e : CmdError) :
    (s.errorEntry op e).params = s.params := rfl
@[simp] theorem State.errorEntry_status (s : State) (op : BitVec 8) (e : CmdError) :
    (s.errorEntry op e).status = 
      { s.status with
        err := true
        errcode := if s.status.err then s.status.errcode else e.code.byte
        lastop := op
        busy := false } := rfl
@[simp] theorem State.errorEntry_irqEn (s : State) (op : BitVec 8) (e : CmdError) :
    (s.errorEntry op e).irqEn = s.irqEn := rfl
@[simp] theorem State.errorEntry_errInfo (s : State) (op : BitVec 8) (e : CmdError) :
    (s.errorEntry op e).errInfo = if s.status.err then s.errInfo else e.info := rfl
@[simp] theorem State.errorEntry_cfgN (s : State) (op : BitVec 8) (e : CmdError) :
    (s.errorEntry op e).cfgN = s.cfgN := rfl
@[simp] theorem State.errorEntry_cfgF (s : State) (op : BitVec 8) (e : CmdError) :
    (s.errorEntry op e).cfgF = s.cfgF := rfl
@[simp] theorem State.errorEntry_cfgC (s : State) (op : BitVec 8) (e : CmdError) :
    (s.errorEntry op e).cfgC = s.cfgC := rfl
@[simp] theorem State.errorEntry_cfgAlpha (s : State) (op : BitVec 8) (e : CmdError) :
    (s.errorEntry op e).cfgAlpha = s.cfgAlpha := rfl
@[simp] theorem State.errorEntry_hannDesc (s : State) (op : BitVec 8) (e : CmdError) :
    (s.errorEntry op e).hannDesc = s.hannDesc := rfl
@[simp] theorem State.errorEntry_fbDesc (s : State) (op : BitVec 8) (e : CmdError) :
    (s.errorEntry op e).fbDesc = s.fbDesc := rfl
@[simp] theorem State.errorEntry_preDesc (s : State) (op : BitVec 8) (e : CmdError) :
    (s.errorEntry op e).preDesc = s.preDesc := rfl
@[simp] theorem State.errorEntry_winDesc (s : State) (op : BitVec 8) (e : CmdError) :
    (s.errorEntry op e).winDesc = s.winDesc := rfl
@[simp] theorem State.errorEntry_dftDesc (s : State) (op : BitVec 8) (e : CmdError) :
    (s.errorEntry op e).dftDesc = s.dftDesc := rfl
@[simp] theorem State.errorEntry_ampDesc (s : State) (op : BitVec 8) (e : CmdError) :
    (s.errorEntry op e).ampDesc = s.ampDesc := rfl
@[simp] theorem State.errorEntry_melDesc (s : State) (op : BitVec 8) (e : CmdError) :
    (s.errorEntry op e).melDesc = s.melDesc := rfl
@[simp] theorem State.errorEntry_logDesc (s : State) (op : BitVec 8) (e : CmdError) :
    (s.errorEntry op e).logDesc = s.logDesc := rfl
@[simp] theorem State.errorEntry_pending (s : State) (op : BitVec 8) (e : CmdError) :
    (s.errorEntry op e).pending = none := rfl
@[simp] theorem State.errorEntry_mem (s : State) (op : BitVec 8) (e : CmdError) :
    (s.errorEntry op e).mem = s.mem := rfl
@[simp] theorem State.errorEntry_events (s : State) (op : BitVec 8) (e : CmdError) :
    (s.errorEntry op e).events = s.events := rfl
@[simp] theorem State.errorEntry_replies (s : State) (op : BitVec 8) (e : CmdError) :
    (s.errorEntry op e).replies = s.replies := rfl
@[simp] theorem State.errorEntry_latency (s : State) (op : BitVec 8) (e : CmdError) :
    (s.errorEntry op e).latency = s.latency := rfl
@[simp] theorem State.errorEntry_delay (s : State) (op : BitVec 8) (e : CmdError) :
    (s.errorEntry op e).delay = s.delay := rfl
@[simp] theorem State.errorEntry_draws (s : State) (op : BitVec 8) (e : CmdError) :
    (s.errorEntry op e).draws = s.draws := rfl

/-! The return from an error changes STATUS and ERR_INFO. -/

@[simp] theorem State.clearError_params (s : State) :
    (s.clearError).params = s.params := rfl
@[simp] theorem State.clearError_status (s : State) :
    (s.clearError).status = { s.status with err := false, errcode := 0x00, dropped := false } := rfl
@[simp] theorem State.clearError_irqEn (s : State) :
    (s.clearError).irqEn = s.irqEn := rfl
@[simp] theorem State.clearError_errInfo (s : State) :
    (s.clearError).errInfo = 0 := rfl
@[simp] theorem State.clearError_cfgN (s : State) :
    (s.clearError).cfgN = s.cfgN := rfl
@[simp] theorem State.clearError_cfgF (s : State) :
    (s.clearError).cfgF = s.cfgF := rfl
@[simp] theorem State.clearError_cfgC (s : State) :
    (s.clearError).cfgC = s.cfgC := rfl
@[simp] theorem State.clearError_cfgAlpha (s : State) :
    (s.clearError).cfgAlpha = s.cfgAlpha := rfl
@[simp] theorem State.clearError_hannDesc (s : State) :
    (s.clearError).hannDesc = s.hannDesc := rfl
@[simp] theorem State.clearError_fbDesc (s : State) :
    (s.clearError).fbDesc = s.fbDesc := rfl
@[simp] theorem State.clearError_preDesc (s : State) :
    (s.clearError).preDesc = s.preDesc := rfl
@[simp] theorem State.clearError_winDesc (s : State) :
    (s.clearError).winDesc = s.winDesc := rfl
@[simp] theorem State.clearError_dftDesc (s : State) :
    (s.clearError).dftDesc = s.dftDesc := rfl
@[simp] theorem State.clearError_ampDesc (s : State) :
    (s.clearError).ampDesc = s.ampDesc := rfl
@[simp] theorem State.clearError_melDesc (s : State) :
    (s.clearError).melDesc = s.melDesc := rfl
@[simp] theorem State.clearError_logDesc (s : State) :
    (s.clearError).logDesc = s.logDesc := rfl
@[simp] theorem State.clearError_pending (s : State) :
    (s.clearError).pending = s.pending := rfl
@[simp] theorem State.clearError_mem (s : State) :
    (s.clearError).mem = s.mem := rfl
@[simp] theorem State.clearError_events (s : State) :
    (s.clearError).events = s.events := rfl
@[simp] theorem State.clearError_replies (s : State) :
    (s.clearError).replies = s.replies := rfl
@[simp] theorem State.clearError_latency (s : State) :
    (s.clearError).latency = s.latency := rfl
@[simp] theorem State.clearError_delay (s : State) :
    (s.clearError).delay = s.delay := rfl
@[simp] theorem State.clearError_draws (s : State) :
    (s.clearError).draws = s.draws := rfl

/-! Reset gives every piece of the block's state its reset value. -/

@[simp] theorem State.toReset_params (s : State) :
    (s.toReset).params = s.params := rfl
@[simp] theorem State.toReset_status (s : State) :
    (s.toReset).status = Status.reset := rfl
@[simp] theorem State.toReset_irqEn (s : State) :
    (s.toReset).irqEn = false := rfl
@[simp] theorem State.toReset_errInfo (s : State) :
    (s.toReset).errInfo = 0 := rfl
@[simp] theorem State.toReset_cfgN (s : State) :
    (s.toReset).cfgN = 1024 := rfl
@[simp] theorem State.toReset_cfgF (s : State) :
    (s.toReset).cfgF = 44000 := rfl
@[simp] theorem State.toReset_cfgC (s : State) :
    (s.toReset).cfgC = 20 := rfl
@[simp] theorem State.toReset_cfgAlpha (s : State) :
    (s.toReset).cfgAlpha = num097 s.params.numFmt := rfl
@[simp] theorem State.toReset_hannDesc (s : State) :
    (s.toReset).hannDesc = Desc.empty := rfl
@[simp] theorem State.toReset_fbDesc (s : State) :
    (s.toReset).fbDesc = Desc.empty := rfl
@[simp] theorem State.toReset_preDesc (s : State) :
    (s.toReset).preDesc = Desc.empty := rfl
@[simp] theorem State.toReset_winDesc (s : State) :
    (s.toReset).winDesc = Desc.empty := rfl
@[simp] theorem State.toReset_dftDesc (s : State) :
    (s.toReset).dftDesc = Desc.empty := rfl
@[simp] theorem State.toReset_ampDesc (s : State) :
    (s.toReset).ampDesc = Desc.empty := rfl
@[simp] theorem State.toReset_melDesc (s : State) :
    (s.toReset).melDesc = Desc.empty := rfl
@[simp] theorem State.toReset_logDesc (s : State) :
    (s.toReset).logDesc = Desc.empty := rfl
@[simp] theorem State.toReset_pending (s : State) :
    (s.toReset).pending = none := rfl
@[simp] theorem State.toReset_mem (s : State) :
    (s.toReset).mem = [] := rfl
@[simp] theorem State.toReset_events (s : State) :
    (s.toReset).events = s.events := rfl
@[simp] theorem State.toReset_replies (s : State) :
    (s.toReset).replies = s.replies := rfl
@[simp] theorem State.toReset_latency (s : State) :
    (s.toReset).latency = s.latency := rfl
@[simp] theorem State.toReset_delay (s : State) :
    (s.toReset).delay = 0 := rfl
@[simp] theorem State.toReset_draws (s : State) :
    (s.toReset).draws = s.draws := rfl

/-! A response changes the host's record alone. -/

@[simp] theorem State.reply_params (s : State) (r : Reply) :
    (s.reply r).params = s.params := rfl
@[simp] theorem State.reply_status (s : State) (r : Reply) :
    (s.reply r).status = s.status := rfl
@[simp] theorem State.reply_irqEn (s : State) (r : Reply) :
    (s.reply r).irqEn = s.irqEn := rfl
@[simp] theorem State.reply_errInfo (s : State) (r : Reply) :
    (s.reply r).errInfo = s.errInfo := rfl
@[simp] theorem State.reply_cfgN (s : State) (r : Reply) :
    (s.reply r).cfgN = s.cfgN := rfl
@[simp] theorem State.reply_cfgF (s : State) (r : Reply) :
    (s.reply r).cfgF = s.cfgF := rfl
@[simp] theorem State.reply_cfgC (s : State) (r : Reply) :
    (s.reply r).cfgC = s.cfgC := rfl
@[simp] theorem State.reply_cfgAlpha (s : State) (r : Reply) :
    (s.reply r).cfgAlpha = s.cfgAlpha := rfl
@[simp] theorem State.reply_hannDesc (s : State) (r : Reply) :
    (s.reply r).hannDesc = s.hannDesc := rfl
@[simp] theorem State.reply_fbDesc (s : State) (r : Reply) :
    (s.reply r).fbDesc = s.fbDesc := rfl
@[simp] theorem State.reply_preDesc (s : State) (r : Reply) :
    (s.reply r).preDesc = s.preDesc := rfl
@[simp] theorem State.reply_winDesc (s : State) (r : Reply) :
    (s.reply r).winDesc = s.winDesc := rfl
@[simp] theorem State.reply_dftDesc (s : State) (r : Reply) :
    (s.reply r).dftDesc = s.dftDesc := rfl
@[simp] theorem State.reply_ampDesc (s : State) (r : Reply) :
    (s.reply r).ampDesc = s.ampDesc := rfl
@[simp] theorem State.reply_melDesc (s : State) (r : Reply) :
    (s.reply r).melDesc = s.melDesc := rfl
@[simp] theorem State.reply_logDesc (s : State) (r : Reply) :
    (s.reply r).logDesc = s.logDesc := rfl
@[simp] theorem State.reply_pending (s : State) (r : Reply) :
    (s.reply r).pending = s.pending := rfl
@[simp] theorem State.reply_mem (s : State) (r : Reply) :
    (s.reply r).mem = s.mem := rfl
@[simp] theorem State.reply_events (s : State) (r : Reply) :
    (s.reply r).events = s.events := rfl
@[simp] theorem State.reply_replies (s : State) (r : Reply) :
    (s.reply r).replies = r :: s.replies := rfl
@[simp] theorem State.reply_latency (s : State) (r : Reply) :
    (s.reply r).latency = s.latency := rfl
@[simp] theorem State.reply_delay (s : State) (r : Reply) :
    (s.reply r).delay = s.delay := rfl
@[simp] theorem State.reply_draws (s : State) (r : Reply) :
    (s.reply r).draws = s.draws := rfl

/-! A discarded write sets DROPPED alone. -/

@[simp] theorem State.drop_params (s : State) :
    (s.drop).params = s.params := rfl
@[simp] theorem State.drop_status (s : State) :
    (s.drop).status = { s.status with dropped := true } := rfl
@[simp] theorem State.drop_irqEn (s : State) :
    (s.drop).irqEn = s.irqEn := rfl
@[simp] theorem State.drop_errInfo (s : State) :
    (s.drop).errInfo = s.errInfo := rfl
@[simp] theorem State.drop_cfgN (s : State) :
    (s.drop).cfgN = s.cfgN := rfl
@[simp] theorem State.drop_cfgF (s : State) :
    (s.drop).cfgF = s.cfgF := rfl
@[simp] theorem State.drop_cfgC (s : State) :
    (s.drop).cfgC = s.cfgC := rfl
@[simp] theorem State.drop_cfgAlpha (s : State) :
    (s.drop).cfgAlpha = s.cfgAlpha := rfl
@[simp] theorem State.drop_hannDesc (s : State) :
    (s.drop).hannDesc = s.hannDesc := rfl
@[simp] theorem State.drop_fbDesc (s : State) :
    (s.drop).fbDesc = s.fbDesc := rfl
@[simp] theorem State.drop_preDesc (s : State) :
    (s.drop).preDesc = s.preDesc := rfl
@[simp] theorem State.drop_winDesc (s : State) :
    (s.drop).winDesc = s.winDesc := rfl
@[simp] theorem State.drop_dftDesc (s : State) :
    (s.drop).dftDesc = s.dftDesc := rfl
@[simp] theorem State.drop_ampDesc (s : State) :
    (s.drop).ampDesc = s.ampDesc := rfl
@[simp] theorem State.drop_melDesc (s : State) :
    (s.drop).melDesc = s.melDesc := rfl
@[simp] theorem State.drop_logDesc (s : State) :
    (s.drop).logDesc = s.logDesc := rfl
@[simp] theorem State.drop_pending (s : State) :
    (s.drop).pending = s.pending := rfl
@[simp] theorem State.drop_mem (s : State) :
    (s.drop).mem = s.mem := rfl
@[simp] theorem State.drop_events (s : State) :
    (s.drop).events = s.events := rfl
@[simp] theorem State.drop_replies (s : State) :
    (s.drop).replies = s.replies := rfl
@[simp] theorem State.drop_latency (s : State) :
    (s.drop).latency = s.latency := rfl
@[simp] theorem State.drop_delay (s : State) :
    (s.drop).delay = s.delay := rfl
@[simp] theorem State.drop_draws (s : State) :
    (s.drop).draws = s.draws := rfl

/-! What BUILD_HANN writes: its buffers and its descriptor. -/

@[simp] theorem State.writeHann_params (s : State) :
    (s.writeHann).params = s.params := rfl
@[simp] theorem State.writeHann_status (s : State) :
    (s.writeHann).status = s.status := rfl
@[simp] theorem State.writeHann_irqEn (s : State) :
    (s.writeHann).irqEn = s.irqEn := rfl
@[simp] theorem State.writeHann_errInfo (s : State) :
    (s.writeHann).errInfo = s.errInfo := rfl
@[simp] theorem State.writeHann_cfgN (s : State) :
    (s.writeHann).cfgN = s.cfgN := rfl
@[simp] theorem State.writeHann_cfgF (s : State) :
    (s.writeHann).cfgF = s.cfgF := rfl
@[simp] theorem State.writeHann_cfgC (s : State) :
    (s.writeHann).cfgC = s.cfgC := rfl
@[simp] theorem State.writeHann_cfgAlpha (s : State) :
    (s.writeHann).cfgAlpha = s.cfgAlpha := rfl
@[simp] theorem State.writeHann_hannDesc (s : State) :
    (s.writeHann).hannDesc = Desc.ofLen s.n := rfl
@[simp] theorem State.writeHann_fbDesc (s : State) :
    (s.writeHann).fbDesc = s.fbDesc := rfl
@[simp] theorem State.writeHann_preDesc (s : State) :
    (s.writeHann).preDesc = s.preDesc := rfl
@[simp] theorem State.writeHann_winDesc (s : State) :
    (s.writeHann).winDesc = s.winDesc := rfl
@[simp] theorem State.writeHann_dftDesc (s : State) :
    (s.writeHann).dftDesc = s.dftDesc := rfl
@[simp] theorem State.writeHann_ampDesc (s : State) :
    (s.writeHann).ampDesc = s.ampDesc := rfl
@[simp] theorem State.writeHann_melDesc (s : State) :
    (s.writeHann).melDesc = s.melDesc := rfl
@[simp] theorem State.writeHann_logDesc (s : State) :
    (s.writeHann).logDesc = s.logDesc := rfl
@[simp] theorem State.writeHann_pending (s : State) :
    (s.writeHann).pending = s.pending := rfl
@[simp] theorem State.writeHann_mem (s : State) :
    (s.writeHann).mem = s.mem.fill Buffer.hann.base s.n (hannValue s.params s.n) := rfl
@[simp] theorem State.writeHann_events (s : State) :
    (s.writeHann).events = s.events := rfl
@[simp] theorem State.writeHann_replies (s : State) :
    (s.writeHann).replies = s.replies := rfl
@[simp] theorem State.writeHann_latency (s : State) :
    (s.writeHann).latency = s.latency := rfl
@[simp] theorem State.writeHann_delay (s : State) :
    (s.writeHann).delay = s.delay := rfl
@[simp] theorem State.writeHann_draws (s : State) :
    (s.writeHann).draws = s.draws := rfl

/-! What BUILD_FB writes: its buffers and its descriptor. -/

@[simp] theorem State.writeFb_params (s : State) :
    (s.writeFb).params = s.params := rfl
@[simp] theorem State.writeFb_status (s : State) :
    (s.writeFb).status = s.status := rfl
@[simp] theorem State.writeFb_irqEn (s : State) :
    (s.writeFb).irqEn = s.irqEn := rfl
@[simp] theorem State.writeFb_errInfo (s : State) :
    (s.writeFb).errInfo = s.errInfo := rfl
@[simp] theorem State.writeFb_cfgN (s : State) :
    (s.writeFb).cfgN = s.cfgN := rfl
@[simp] theorem State.writeFb_cfgF (s : State) :
    (s.writeFb).cfgF = s.cfgF := rfl
@[simp] theorem State.writeFb_cfgC (s : State) :
    (s.writeFb).cfgC = s.cfgC := rfl
@[simp] theorem State.writeFb_cfgAlpha (s : State) :
    (s.writeFb).cfgAlpha = s.cfgAlpha := rfl
@[simp] theorem State.writeFb_hannDesc (s : State) :
    (s.writeFb).hannDesc = s.hannDesc := rfl
@[simp] theorem State.writeFb_fbDesc (s : State) :
    (s.writeFb).fbDesc = ⟨true, BitVec.ofNat 16 s.c, BitVec.ofNat 32 s.nyq⟩ := rfl
@[simp] theorem State.writeFb_preDesc (s : State) :
    (s.writeFb).preDesc = s.preDesc := rfl
@[simp] theorem State.writeFb_winDesc (s : State) :
    (s.writeFb).winDesc = s.winDesc := rfl
@[simp] theorem State.writeFb_dftDesc (s : State) :
    (s.writeFb).dftDesc = s.dftDesc := rfl
@[simp] theorem State.writeFb_ampDesc (s : State) :
    (s.writeFb).ampDesc = s.ampDesc := rfl
@[simp] theorem State.writeFb_melDesc (s : State) :
    (s.writeFb).melDesc = s.melDesc := rfl
@[simp] theorem State.writeFb_logDesc (s : State) :
    (s.writeFb).logDesc = s.logDesc := rfl
@[simp] theorem State.writeFb_pending (s : State) :
    (s.writeFb).pending = s.pending := rfl
@[simp] theorem State.writeFb_mem (s : State) :
    (s.writeFb).mem = 
      (((s.mem.fill Buffer.fbIstart.base s.c (fun k => BitVec.ofNat 64 (iStart s.params s.nyq s.c k))).fill
        Buffer.fbIcenter.base s.c (fun k => BitVec.ofNat 64 (iCenter s.params s.nyq s.c k))).fill
        Buffer.fbIend.base s.c (fun k => BitVec.ofNat 64 (iEnd s.params s.nyq s.c k))).fillRows
        s.nyq (weightOf s.params s.nyq s.c) s.c := rfl
@[simp] theorem State.writeFb_events (s : State) :
    (s.writeFb).events = s.events := rfl
@[simp] theorem State.writeFb_replies (s : State) :
    (s.writeFb).replies = s.replies := rfl
@[simp] theorem State.writeFb_latency (s : State) :
    (s.writeFb).latency = s.latency := rfl
@[simp] theorem State.writeFb_delay (s : State) :
    (s.writeFb).delay = s.delay := rfl
@[simp] theorem State.writeFb_draws (s : State) :
    (s.writeFb).draws = s.draws := rfl

/-! What PREEMPH writes: its buffers and its descriptor. -/

@[simp] theorem State.writePreemph_params (s : State) :
    (s.writePreemph).params = s.params := rfl
@[simp] theorem State.writePreemph_status (s : State) :
    (s.writePreemph).status = s.status := rfl
@[simp] theorem State.writePreemph_irqEn (s : State) :
    (s.writePreemph).irqEn = s.irqEn := rfl
@[simp] theorem State.writePreemph_errInfo (s : State) :
    (s.writePreemph).errInfo = s.errInfo := rfl
@[simp] theorem State.writePreemph_cfgN (s : State) :
    (s.writePreemph).cfgN = s.cfgN := rfl
@[simp] theorem State.writePreemph_cfgF (s : State) :
    (s.writePreemph).cfgF = s.cfgF := rfl
@[simp] theorem State.writePreemph_cfgC (s : State) :
    (s.writePreemph).cfgC = s.cfgC := rfl
@[simp] theorem State.writePreemph_cfgAlpha (s : State) :
    (s.writePreemph).cfgAlpha = s.cfgAlpha := rfl
@[simp] theorem State.writePreemph_hannDesc (s : State) :
    (s.writePreemph).hannDesc = s.hannDesc := rfl
@[simp] theorem State.writePreemph_fbDesc (s : State) :
    (s.writePreemph).fbDesc = s.fbDesc := rfl
@[simp] theorem State.writePreemph_preDesc (s : State) :
    (s.writePreemph).preDesc = Desc.ofLen s.n := rfl
@[simp] theorem State.writePreemph_winDesc (s : State) :
    (s.writePreemph).winDesc = s.winDesc := rfl
@[simp] theorem State.writePreemph_dftDesc (s : State) :
    (s.writePreemph).dftDesc = s.dftDesc := rfl
@[simp] theorem State.writePreemph_ampDesc (s : State) :
    (s.writePreemph).ampDesc = s.ampDesc := rfl
@[simp] theorem State.writePreemph_melDesc (s : State) :
    (s.writePreemph).melDesc = s.melDesc := rfl
@[simp] theorem State.writePreemph_logDesc (s : State) :
    (s.writePreemph).logDesc = s.logDesc := rfl
@[simp] theorem State.writePreemph_pending (s : State) :
    (s.writePreemph).pending = s.pending := rfl
@[simp] theorem State.writePreemph_mem (s : State) :
    (s.writePreemph).mem = 
      s.mem.fill Buffer.pre.base s.n (preemphValue s.params.numFmt s.cfgAlpha (s.operand .sin)) := rfl
@[simp] theorem State.writePreemph_events (s : State) :
    (s.writePreemph).events = s.events := rfl
@[simp] theorem State.writePreemph_replies (s : State) :
    (s.writePreemph).replies = s.replies := rfl
@[simp] theorem State.writePreemph_latency (s : State) :
    (s.writePreemph).latency = s.latency := rfl
@[simp] theorem State.writePreemph_delay (s : State) :
    (s.writePreemph).delay = s.delay := rfl
@[simp] theorem State.writePreemph_draws (s : State) :
    (s.writePreemph).draws = s.draws := rfl

/-! What WINDOW writes: its buffers and its descriptor. -/

@[simp] theorem State.writeWindow_params (s : State) :
    (s.writeWindow).params = s.params := rfl
@[simp] theorem State.writeWindow_status (s : State) :
    (s.writeWindow).status = s.status := rfl
@[simp] theorem State.writeWindow_irqEn (s : State) :
    (s.writeWindow).irqEn = s.irqEn := rfl
@[simp] theorem State.writeWindow_errInfo (s : State) :
    (s.writeWindow).errInfo = s.errInfo := rfl
@[simp] theorem State.writeWindow_cfgN (s : State) :
    (s.writeWindow).cfgN = s.cfgN := rfl
@[simp] theorem State.writeWindow_cfgF (s : State) :
    (s.writeWindow).cfgF = s.cfgF := rfl
@[simp] theorem State.writeWindow_cfgC (s : State) :
    (s.writeWindow).cfgC = s.cfgC := rfl
@[simp] theorem State.writeWindow_cfgAlpha (s : State) :
    (s.writeWindow).cfgAlpha = s.cfgAlpha := rfl
@[simp] theorem State.writeWindow_hannDesc (s : State) :
    (s.writeWindow).hannDesc = s.hannDesc := rfl
@[simp] theorem State.writeWindow_fbDesc (s : State) :
    (s.writeWindow).fbDesc = s.fbDesc := rfl
@[simp] theorem State.writeWindow_preDesc (s : State) :
    (s.writeWindow).preDesc = s.preDesc := rfl
@[simp] theorem State.writeWindow_winDesc (s : State) :
    (s.writeWindow).winDesc = Desc.ofLen s.n := rfl
@[simp] theorem State.writeWindow_dftDesc (s : State) :
    (s.writeWindow).dftDesc = s.dftDesc := rfl
@[simp] theorem State.writeWindow_ampDesc (s : State) :
    (s.writeWindow).ampDesc = s.ampDesc := rfl
@[simp] theorem State.writeWindow_melDesc (s : State) :
    (s.writeWindow).melDesc = s.melDesc := rfl
@[simp] theorem State.writeWindow_logDesc (s : State) :
    (s.writeWindow).logDesc = s.logDesc := rfl
@[simp] theorem State.writeWindow_pending (s : State) :
    (s.writeWindow).pending = s.pending := rfl
@[simp] theorem State.writeWindow_mem (s : State) :
    (s.writeWindow).mem = 
      s.mem.fill Buffer.win.base s.n
        (fun i => fmul s.params.numFmt (s.operand .pre i) (s.operand .hann i)) := rfl
@[simp] theorem State.writeWindow_events (s : State) :
    (s.writeWindow).events = s.events := rfl
@[simp] theorem State.writeWindow_replies (s : State) :
    (s.writeWindow).replies = s.replies := rfl
@[simp] theorem State.writeWindow_latency (s : State) :
    (s.writeWindow).latency = s.latency := rfl
@[simp] theorem State.writeWindow_delay (s : State) :
    (s.writeWindow).delay = s.delay := rfl
@[simp] theorem State.writeWindow_draws (s : State) :
    (s.writeWindow).draws = s.draws := rfl

/-! What DFT writes: its buffers and its descriptor. -/

@[simp] theorem State.writeDft_params (s : State) :
    (s.writeDft).params = s.params := rfl
@[simp] theorem State.writeDft_status (s : State) :
    (s.writeDft).status = s.status := rfl
@[simp] theorem State.writeDft_irqEn (s : State) :
    (s.writeDft).irqEn = s.irqEn := rfl
@[simp] theorem State.writeDft_errInfo (s : State) :
    (s.writeDft).errInfo = s.errInfo := rfl
@[simp] theorem State.writeDft_cfgN (s : State) :
    (s.writeDft).cfgN = s.cfgN := rfl
@[simp] theorem State.writeDft_cfgF (s : State) :
    (s.writeDft).cfgF = s.cfgF := rfl
@[simp] theorem State.writeDft_cfgC (s : State) :
    (s.writeDft).cfgC = s.cfgC := rfl
@[simp] theorem State.writeDft_cfgAlpha (s : State) :
    (s.writeDft).cfgAlpha = s.cfgAlpha := rfl
@[simp] theorem State.writeDft_hannDesc (s : State) :
    (s.writeDft).hannDesc = s.hannDesc := rfl
@[simp] theorem State.writeDft_fbDesc (s : State) :
    (s.writeDft).fbDesc = s.fbDesc := rfl
@[simp] theorem State.writeDft_preDesc (s : State) :
    (s.writeDft).preDesc = s.preDesc := rfl
@[simp] theorem State.writeDft_winDesc (s : State) :
    (s.writeDft).winDesc = s.winDesc := rfl
@[simp] theorem State.writeDft_dftDesc (s : State) :
    (s.writeDft).dftDesc = Desc.ofLen s.f := rfl
@[simp] theorem State.writeDft_ampDesc (s : State) :
    (s.writeDft).ampDesc = s.ampDesc := rfl
@[simp] theorem State.writeDft_melDesc (s : State) :
    (s.writeDft).melDesc = s.melDesc := rfl
@[simp] theorem State.writeDft_logDesc (s : State) :
    (s.writeDft).logDesc = s.logDesc := rfl
@[simp] theorem State.writeDft_pending (s : State) :
    (s.writeDft).pending = s.pending := rfl
@[simp] theorem State.writeDft_mem (s : State) :
    (s.writeDft).mem = 
      (s.mem.fill Buffer.re.base s.f (dftRe s.params s.n s.f (s.operand .win))).fill Buffer.im.base s.f
        (dftIm s.params s.n s.f (s.operand .win)) := rfl
@[simp] theorem State.writeDft_events (s : State) :
    (s.writeDft).events = s.events := rfl
@[simp] theorem State.writeDft_replies (s : State) :
    (s.writeDft).replies = s.replies := rfl
@[simp] theorem State.writeDft_latency (s : State) :
    (s.writeDft).latency = s.latency := rfl
@[simp] theorem State.writeDft_delay (s : State) :
    (s.writeDft).delay = s.delay := rfl
@[simp] theorem State.writeDft_draws (s : State) :
    (s.writeDft).draws = s.draws := rfl

/-! What MAG writes: its buffers and its descriptor. -/

@[simp] theorem State.writeMag_params (s : State) :
    (s.writeMag).params = s.params := rfl
@[simp] theorem State.writeMag_status (s : State) :
    (s.writeMag).status = s.status := rfl
@[simp] theorem State.writeMag_irqEn (s : State) :
    (s.writeMag).irqEn = s.irqEn := rfl
@[simp] theorem State.writeMag_errInfo (s : State) :
    (s.writeMag).errInfo = s.errInfo := rfl
@[simp] theorem State.writeMag_cfgN (s : State) :
    (s.writeMag).cfgN = s.cfgN := rfl
@[simp] theorem State.writeMag_cfgF (s : State) :
    (s.writeMag).cfgF = s.cfgF := rfl
@[simp] theorem State.writeMag_cfgC (s : State) :
    (s.writeMag).cfgC = s.cfgC := rfl
@[simp] theorem State.writeMag_cfgAlpha (s : State) :
    (s.writeMag).cfgAlpha = s.cfgAlpha := rfl
@[simp] theorem State.writeMag_hannDesc (s : State) :
    (s.writeMag).hannDesc = s.hannDesc := rfl
@[simp] theorem State.writeMag_fbDesc (s : State) :
    (s.writeMag).fbDesc = s.fbDesc := rfl
@[simp] theorem State.writeMag_preDesc (s : State) :
    (s.writeMag).preDesc = s.preDesc := rfl
@[simp] theorem State.writeMag_winDesc (s : State) :
    (s.writeMag).winDesc = s.winDesc := rfl
@[simp] theorem State.writeMag_dftDesc (s : State) :
    (s.writeMag).dftDesc = s.dftDesc := rfl
@[simp] theorem State.writeMag_ampDesc (s : State) :
    (s.writeMag).ampDesc = Desc.ofLen s.f := rfl
@[simp] theorem State.writeMag_melDesc (s : State) :
    (s.writeMag).melDesc = s.melDesc := rfl
@[simp] theorem State.writeMag_logDesc (s : State) :
    (s.writeMag).logDesc = s.logDesc := rfl
@[simp] theorem State.writeMag_pending (s : State) :
    (s.writeMag).pending = s.pending := rfl
@[simp] theorem State.writeMag_mem (s : State) :
    (s.writeMag).mem = 
      s.mem.fill Buffer.amp.base s.f
        (fun i => magValue s.params.numFmt (s.operand .re i) (s.operand .im i)) := rfl
@[simp] theorem State.writeMag_events (s : State) :
    (s.writeMag).events = s.events := rfl
@[simp] theorem State.writeMag_replies (s : State) :
    (s.writeMag).replies = s.replies := rfl
@[simp] theorem State.writeMag_latency (s : State) :
    (s.writeMag).latency = s.latency := rfl
@[simp] theorem State.writeMag_delay (s : State) :
    (s.writeMag).delay = s.delay := rfl
@[simp] theorem State.writeMag_draws (s : State) :
    (s.writeMag).draws = s.draws := rfl

/-! What MELFB writes: its buffers and its descriptor. -/

@[simp] theorem State.writeMelfb_params (s : State) :
    (s.writeMelfb).params = s.params := rfl
@[simp] theorem State.writeMelfb_status (s : State) :
    (s.writeMelfb).status = s.status := rfl
@[simp] theorem State.writeMelfb_irqEn (s : State) :
    (s.writeMelfb).irqEn = s.irqEn := rfl
@[simp] theorem State.writeMelfb_errInfo (s : State) :
    (s.writeMelfb).errInfo = s.errInfo := rfl
@[simp] theorem State.writeMelfb_cfgN (s : State) :
    (s.writeMelfb).cfgN = s.cfgN := rfl
@[simp] theorem State.writeMelfb_cfgF (s : State) :
    (s.writeMelfb).cfgF = s.cfgF := rfl
@[simp] theorem State.writeMelfb_cfgC (s : State) :
    (s.writeMelfb).cfgC = s.cfgC := rfl
@[simp] theorem State.writeMelfb_cfgAlpha (s : State) :
    (s.writeMelfb).cfgAlpha = s.cfgAlpha := rfl
@[simp] theorem State.writeMelfb_hannDesc (s : State) :
    (s.writeMelfb).hannDesc = s.hannDesc := rfl
@[simp] theorem State.writeMelfb_fbDesc (s : State) :
    (s.writeMelfb).fbDesc = s.fbDesc := rfl
@[simp] theorem State.writeMelfb_preDesc (s : State) :
    (s.writeMelfb).preDesc = s.preDesc := rfl
@[simp] theorem State.writeMelfb_winDesc (s : State) :
    (s.writeMelfb).winDesc = s.winDesc := rfl
@[simp] theorem State.writeMelfb_dftDesc (s : State) :
    (s.writeMelfb).dftDesc = s.dftDesc := rfl
@[simp] theorem State.writeMelfb_ampDesc (s : State) :
    (s.writeMelfb).ampDesc = s.ampDesc := rfl
@[simp] theorem State.writeMelfb_melDesc (s : State) :
    (s.writeMelfb).melDesc = Desc.ofLen s.c := rfl
@[simp] theorem State.writeMelfb_logDesc (s : State) :
    (s.writeMelfb).logDesc = s.logDesc := rfl
@[simp] theorem State.writeMelfb_pending (s : State) :
    (s.writeMelfb).pending = s.pending := rfl
@[simp] theorem State.writeMelfb_mem (s : State) :
    (s.writeMelfb).mem = s.mem.fill Buffer.mel.base s.c s.melValue := rfl
@[simp] theorem State.writeMelfb_events (s : State) :
    (s.writeMelfb).events = s.events := rfl
@[simp] theorem State.writeMelfb_replies (s : State) :
    (s.writeMelfb).replies = s.replies := rfl
@[simp] theorem State.writeMelfb_latency (s : State) :
    (s.writeMelfb).latency = s.latency := rfl
@[simp] theorem State.writeMelfb_delay (s : State) :
    (s.writeMelfb).delay = s.delay := rfl
@[simp] theorem State.writeMelfb_draws (s : State) :
    (s.writeMelfb).draws = s.draws := rfl

/-! What LOG writes: its buffers and its descriptor and NF. -/

@[simp] theorem State.writeLog_params (s : State) :
    (s.writeLog).params = s.params := rfl
@[simp] theorem State.writeLog_status (s : State) :
    (s.writeLog).status = 
      { s.status with
        nf := nonFinite s.params.numFmt s.c (fun k => logValue s.params (s.operand .mel k)) } := rfl
@[simp] theorem State.writeLog_irqEn (s : State) :
    (s.writeLog).irqEn = s.irqEn := rfl
@[simp] theorem State.writeLog_errInfo (s : State) :
    (s.writeLog).errInfo = s.errInfo := rfl
@[simp] theorem State.writeLog_cfgN (s : State) :
    (s.writeLog).cfgN = s.cfgN := rfl
@[simp] theorem State.writeLog_cfgF (s : State) :
    (s.writeLog).cfgF = s.cfgF := rfl
@[simp] theorem State.writeLog_cfgC (s : State) :
    (s.writeLog).cfgC = s.cfgC := rfl
@[simp] theorem State.writeLog_cfgAlpha (s : State) :
    (s.writeLog).cfgAlpha = s.cfgAlpha := rfl
@[simp] theorem State.writeLog_hannDesc (s : State) :
    (s.writeLog).hannDesc = s.hannDesc := rfl
@[simp] theorem State.writeLog_fbDesc (s : State) :
    (s.writeLog).fbDesc = s.fbDesc := rfl
@[simp] theorem State.writeLog_preDesc (s : State) :
    (s.writeLog).preDesc = s.preDesc := rfl
@[simp] theorem State.writeLog_winDesc (s : State) :
    (s.writeLog).winDesc = s.winDesc := rfl
@[simp] theorem State.writeLog_dftDesc (s : State) :
    (s.writeLog).dftDesc = s.dftDesc := rfl
@[simp] theorem State.writeLog_ampDesc (s : State) :
    (s.writeLog).ampDesc = s.ampDesc := rfl
@[simp] theorem State.writeLog_melDesc (s : State) :
    (s.writeLog).melDesc = s.melDesc := rfl
@[simp] theorem State.writeLog_logDesc (s : State) :
    (s.writeLog).logDesc = Desc.ofLen s.c := rfl
@[simp] theorem State.writeLog_pending (s : State) :
    (s.writeLog).pending = s.pending := rfl
@[simp] theorem State.writeLog_mem (s : State) :
    (s.writeLog).mem = 
      s.mem.fill Buffer.logmel.base s.c (fun k => logValue s.params (s.operand .mel k)) := rfl
@[simp] theorem State.writeLog_events (s : State) :
    (s.writeLog).events = s.events := rfl
@[simp] theorem State.writeLog_replies (s : State) :
    (s.writeLog).replies = s.replies := rfl
@[simp] theorem State.writeLog_latency (s : State) :
    (s.writeLog).latency = s.latency := rfl
@[simp] theorem State.writeLog_delay (s : State) :
    (s.writeLog).delay = s.delay := rfl
@[simp] theorem State.writeLog_draws (s : State) :
    (s.writeLog).draws = s.draws := rfl

/-! RUN writes what the eight bodies write, in order (42_control.md R187). -/

@[simp] theorem State.writeRun_params (s : State) :
    s.writeRun.params = s.params := by
  simp [State.writeRun]
@[simp] theorem State.writeRun_irqEn (s : State) :
    s.writeRun.irqEn = s.irqEn := by
  simp [State.writeRun]
@[simp] theorem State.writeRun_errInfo (s : State) :
    s.writeRun.errInfo = s.errInfo := by
  simp [State.writeRun]
@[simp] theorem State.writeRun_cfgN (s : State) :
    s.writeRun.cfgN = s.cfgN := by
  simp [State.writeRun]
@[simp] theorem State.writeRun_cfgF (s : State) :
    s.writeRun.cfgF = s.cfgF := by
  simp [State.writeRun]
@[simp] theorem State.writeRun_cfgC (s : State) :
    s.writeRun.cfgC = s.cfgC := by
  simp [State.writeRun]
@[simp] theorem State.writeRun_cfgAlpha (s : State) :
    s.writeRun.cfgAlpha = s.cfgAlpha := by
  simp [State.writeRun]
@[simp] theorem State.writeRun_hannDesc (s : State) :
    s.writeRun.hannDesc = Desc.ofLen s.n := by
  simp [State.writeRun]
@[simp] theorem State.writeRun_fbDesc (s : State) :
    s.writeRun.fbDesc = ⟨true, BitVec.ofNat 16 s.c, BitVec.ofNat 32 s.nyq⟩ := by
  simp [State.writeRun, State.c, State.nyq, State.f]
@[simp] theorem State.writeRun_preDesc (s : State) :
    s.writeRun.preDesc = Desc.ofLen s.n := by
  simp [State.writeRun, State.n]
@[simp] theorem State.writeRun_winDesc (s : State) :
    s.writeRun.winDesc = Desc.ofLen s.n := by
  simp [State.writeRun, State.n]
@[simp] theorem State.writeRun_dftDesc (s : State) :
    s.writeRun.dftDesc = Desc.ofLen s.f := by
  simp [State.writeRun, State.f]
@[simp] theorem State.writeRun_ampDesc (s : State) :
    s.writeRun.ampDesc = Desc.ofLen s.f := by
  simp [State.writeRun, State.f]
@[simp] theorem State.writeRun_melDesc (s : State) :
    s.writeRun.melDesc = Desc.ofLen s.c := by
  simp [State.writeRun, State.c]
@[simp] theorem State.writeRun_logDesc (s : State) :
    s.writeRun.logDesc = Desc.ofLen s.c := by
  simp [State.writeRun, State.c]
@[simp] theorem State.writeRun_pending (s : State) :
    s.writeRun.pending = s.pending := by
  simp [State.writeRun]
@[simp] theorem State.writeRun_events (s : State) :
    s.writeRun.events = s.events := by
  simp [State.writeRun]
@[simp] theorem State.writeRun_replies (s : State) :
    s.writeRun.replies = s.replies := by
  simp [State.writeRun]
@[simp] theorem State.writeRun_latency (s : State) :
    s.writeRun.latency = s.latency := by
  simp [State.writeRun]
@[simp] theorem State.writeRun_delay (s : State) :
    s.writeRun.delay = s.delay := by
  simp [State.writeRun]
@[simp] theorem State.writeRun_draws (s : State) :
    s.writeRun.draws = s.draws := by
  simp [State.writeRun]

end Sys2Proof.Machine
end

