-- ==== Sys2Proof/Laws/Ops.lean ====
section
/-! SUPPORT. What a command's completion, a host turn and a step can do: one lemma for each shared operation, cited instead
of unfolding it. -/

namespace Sys2Proof.Machine

/-- A completion is always a next state: the error entry, or the body's writes (42_control.md R181). -/
theorem State.complete_cases {op : BitVec 8} {check : Option CmdError} {body : State → State} {s t : State}
    (h : s.complete op check body = .next t) :
    (∃ e, check = some e ∧ t = s.errorEntry op e) ∨ (check = none ∧ t = (body s).finish op) := by
  unfold State.complete at h
  cases check with
  | some e => injection h with h; exact .inl ⟨e, rfl, h.symm⟩
  | none => injection h with h; exact .inr ⟨rfl, h.symm⟩

theorem State.complete_of_error {op : BitVec 8} {check : Option CmdError} {body : State → State} {s : State}
    {e : CmdError} (h : check = some e) : s.complete op check body = .next (s.errorEntry op e) := by
  subst h; rfl

theorem State.complete_of_none {op : BitVec 8} {check : Option CmdError} {body : State → State} {s : State}
    (h : check = none) : s.complete op check body = .next ((body s).finish op) := by
  subst h; rfl

/-- The first error of a command's checks, in order; SOFT_RESET and the commands without checks have none
(60_exceptions.md R204). -/
def State.checkOf (s : State) : Instr → Option CmdError
  | .nop | .softReset | .clearStatus => none
  | .buildHann => s.checkHann
  | .buildFb => s.checkFb
  | .preemph => s.checkPreemph
  | .window => s.checkWindow
  | .dft => s.checkDft
  | .mag => s.checkMag
  | .melfb => s.checkMelfb
  | .log => s.checkLog
  | .run => s.checkRun

/-- The writes of a command's pseudocode. -/
def State.bodyOf (s : State) : Instr → State
  | .nop => s
  | .softReset => s.toReset
  | .clearStatus => s.clearError
  | .buildHann => s.writeHann
  | .buildFb => s.writeFb
  | .preemph => s.writePreemph
  | .window => s.writeWindow
  | .dft => s.writeDft
  | .mag => s.writeMag
  | .melfb => s.writeMelfb
  | .log => s.writeLog
  | .run => s.writeRun

/-- Every command but SOFT_RESET ends in `complete` with its own checks and its own body. -/
theorem exec_eq_complete {i : Instr} (h : i ≠ .softReset) (s : State) :
    exec i s = s.complete i.op (s.checkOf i) (fun s => s.bodyOf i) := by
  cases i <;> first | rfl | exact absurd rfl h

theorem exec_softReset (s : State) : exec .softReset s = .next s.toReset := rfl

/-- What `exec` can do: reset, an error entry, or the body's writes. -/
theorem exec_cases {i : Instr} {s t : State} (h : exec i s = .next t) :
    (i = .softReset ∧ t = s.toReset) ∨
    (i ≠ .softReset ∧ ∃ e, s.checkOf i = some e ∧ t = s.errorEntry i.op e) ∨
    (i ≠ .softReset ∧ s.checkOf i = none ∧ t = (s.bodyOf i).finish i.op) := by
  by_cases hi : i = .softReset
  · subst hi; rw [exec_softReset] at h; injection h with h; exact .inl ⟨rfl, h.symm⟩
  · rw [exec_eq_complete hi] at h
    rcases State.complete_cases h with ⟨e, h1, h2⟩ | ⟨h1, h2⟩
    · exact .inr (.inl ⟨hi, e, h1, h2⟩)
    · exact .inr (.inr ⟨hi, h1, h2⟩)

/-- What the engine's step can do: complete a word that is no command with an error, or execute the decoded command. -/
theorem engineStep_cases {s t : State} (h : engineStep s = .next t) :
    ∃ w, s.pending = some w ∧
      ((∃ r, decodeWord w = .error r ∧ t = s.errorEntry (Word.op w) ⟨.illegalCmd, w⟩) ∨
       (∃ i, decodeWord w = .ok i ∧ exec i s = .next t)) := by
  unfold engineStep at h
  cases hp : s.pending with
  | none => rw [hp] at h; cases h
  | some w =>
    rw [hp] at h
    refine ⟨w, rfl, ?_⟩
    cases hd : decodeWord w with
    | error r => simp only [hd] at h; injection h with h; exact .inl ⟨r, rfl, h.symm⟩
    | ok i => simp only [hd] at h; exact .inr ⟨i, rfl, h⟩

/-- What a step can do: a host turn, or with BUSY set and no host turn left the engine's step. -/
theorem step_cases {s t : State} (h : step s = .next t) :
    (s.status.busy = false ∧ t = s.hostTurn) ∨
    (s.status.busy = true ∧ ∃ d, s.delay = d + 1 ∧ t = ({ s with delay := d } : State).hostTurn) ∨
    (s.status.busy = true ∧ s.delay = 0 ∧ engineStep s = .next t) := by
  unfold step State.advance at h
  cases hb : s.status.busy with
  | false => rw [hb] at h; injection h with h; exact .inl ⟨rfl, h.symm⟩
  | true =>
    rw [hb] at h
    cases hd : s.delay with
    | zero => simp only [hd] at h; exact .inr (.inr ⟨rfl, rfl, h⟩)
    | succ d => simp only [hd] at h; injection h with h; exact .inr (.inl ⟨rfl, d, rfl, h.symm⟩)

/-- What a READ can do: it adds a response and at most counts one draw (20_memory.md R82). -/
theorem State.hostRead_cases (s : State) (a : Addr) :
    ∃ r d, s.hostRead a = { s with replies := r :: s.replies, draws := d } := by
  unfold State.hostRead
  split
  · exact ⟨_, _, rfl⟩
  · split <;> exact ⟨_, _, rfl⟩

/-- What acceptance can do: drop the word, or make it pending with some delay (42_control.md R180). -/
theorem State.accept_cases (s : State) (w : Word) :
    (s.accept w = s.drop ∧
      (s.status.busy = true ∨ (s.status.err = true ∧ w ≠ encode .softReset ∧ w ≠ encode .clearStatus))) ∨
    (s.status.busy = false ∧
      (s.status.err = true → w = encode .softReset ∨ w = encode .clearStatus) ∧
      ∃ d l n, s.accept w =
        { s with
          pending := some w
          status := { s.status with busy := true, done := false }
          delay := d
          latency := l
          draws := n }) := by
  unfold State.accept
  cases hb : s.status.busy with
  | true => exact .inl ⟨rfl, .inl rfl⟩
  | false =>
    by_cases h : s.status.err = true ∧ w ≠ encode .softReset ∧ w ≠ encode .clearStatus
    · exact .inl ⟨by simp [h], .inr h⟩
    · refine .inr ⟨rfl, ?_, ?_⟩
      · intro he
        by_cases h1 : w = encode .softReset
        · exact .inl h1
        · exact .inr (by_contra fun h2 => h ⟨he, h1, h2⟩)
      · simp only [Bool.false_eq_true, if_false, if_neg h]
        unfold State.drawLatency
        cases s.latency with
        | nil => exact ⟨_, _, _, rfl⟩
        | cons d rest => exact ⟨d, rest, s.draws, rfl⟩

/-- What a WRITE of a selected location can do (20_memory.md R81). -/
theorem State.writeLoc_cases {s t : State} {l : Loc} {w : Word} (h : s.writeLoc l w = some t) :
    (l = .reg .cmd ∧ t = s.accept w) ∨
    (l = .reg .status ∧ (t = s ∨ t = { s with status := { s.status with done := false } })) ∨
    (l = .reg .ctrl ∧ t = { s with irqEn := w.getLsbD 0 }) ∨
    (s.status.busy = true ∧ t = s.drop ∧
      ((l = .reg .cfgN ∨ l = .reg .cfgF ∨ l = .reg .cfgC ∨ l = .reg .cfgAlpha) ∨ ∃ i, l = .entry .sin i)) ∨
    (s.status.busy = false ∧
      ((l = .reg .cfgN ∧ t = { s with cfgN := w.setWidth 32 }) ∨
       (l = .reg .cfgF ∧ t = { s with cfgF := w.setWidth 32 }) ∨
       (l = .reg .cfgC ∧ t = { s with cfgC := w.setWidth 32 }) ∨
       (l = .reg .cfgAlpha ∧ t = { s with cfgAlpha := truncNum s.params.numFmt w }) ∨
       (∃ i, l = .entry .sin i ∧
        t = { s with mem := s.mem.write (Buffer.sin.addr i) (truncNum s.params.numFmt w) }))) := by
  cases l with
  | reg r =>
    cases r <;> simp only [State.writeLoc, State.writeIdle, Option.some.injEq, reduceCtorEq] at h
    case cmd => exact .inl ⟨rfl, h.symm⟩
    case status => refine .inr (.inl ⟨rfl, ?_⟩); split at h <;> simp [← h]
    case ctrl => exact .inr (.inr (.inl ⟨rfl, h.symm⟩))
    all_goals
      split at h
      · rename_i hb; exact .inr (.inr (.inr (.inl ⟨hb, h.symm, by simp⟩)))
      · rename_i hb; simp [← h, hb]
  | entry b i =>
    cases b <;> simp only [State.writeLoc, State.writeIdle, Option.some.injEq, reduceCtorEq] at h
    split at h
    · rename_i hb; exact .inr (.inr (.inr (.inl ⟨hb, h.symm, .inr ⟨i, rfl⟩⟩)))
    · rename_i hb; simp [← h, hb]

/-- What a WRITE can do: a bus error, or the effect of the location with an OKAY response (20_memory.md R78, R81). -/
theorem State.hostWrite_cases (s : State) (a : Addr) (w : Word) :
    s.hostWrite a w = s.busError ∨
    ∃ l t, select s.params a = some l ∧ s.writeLoc l w = some t ∧ s.hostWrite a w = t.reply ⟨true, none⟩ := by
  unfold State.hostWrite
  cases hs : select s.params a with
  | none => exact .inl rfl
  | some l =>
    cases hw : s.writeLoc l w with
    | none => left; simp [hw]
    | some t => right; exact ⟨l, t, rfl, hw, by simp [hw]⟩

/-! The checks: each passes exactly on the configurations and descriptors that 60_exceptions.md R202, R203 give. -/

theorem State.checkN_eq_none {s : State} {lo : Nat} :
    s.checkN lo = none ↔ lo ≤ s.n ∧ s.n ≤ s.params.nMax := by
  unfold State.checkN; split <;> simp <;> omega

theorem State.checkF_eq_none {s : State} {lo : Nat} :
    s.checkF lo = none ↔ lo ≤ s.f ∧ s.f ≤ s.params.fMax := by
  unfold State.checkF; split <;> simp <;> omega

theorem State.checkC_eq_none {s : State} : s.checkC = none ↔ 1 ≤ s.c ∧ s.c ≤ s.params.cMax := by
  unfold State.checkC; split <;> simp <;> omega

theorem State.need_eq_none {s : State} {d : DescName} {l : Nat} :
    s.need d l = none ↔ (s.desc d).v = true ∧ (s.desc d).len.toNat = l := by
  unfold State.need; cases (s.desc d).v <;> simp

theorem State.needFb_eq_none {s : State} {l c : Nat} :
    s.needFb l c = none ↔ s.fbDesc.v = true ∧ s.fbDesc.len.toNat = l ∧ s.fbDesc.ch.toNat = c := by
  unfold State.needFb; cases s.fbDesc.v <;> simp

theorem State.checkSin_eq_none {s : State} : s.checkSin = none ↔ ∀ i, i < s.n → s.sinW i = true := by
  simp [State.checkSin]

/-- The error of the sample check is the lowest unwritten index (60_exceptions.md R201). -/
theorem State.checkSin_eq_some {s : State} {j : Nat} (hj : j < s.n) (h : s.sinW j = false)
    (hlow : ∀ i, i < j → s.sinW i = true) : s.checkSin = some ⟨.uninit, BitVec.ofNat 64 j⟩ := by
  have hf : (List.range s.n).find? (fun i => !s.sinW i) = some j := by
    rw [List.find?_range_eq_some]; simpa [hj, h] using hlow
  rw [State.checkSin, hf]; rfl

/-- An entry below the filled length holds the value written (State.fillBuffer). -/
theorem State.entry_of_fill {s t : State} {b : Buffer} {n i : Nat} {v : Nat → Word}
    (h : t.mem = s.mem.fill b.base n v) (hi : i < n) : t.entry b i = some (v i) := by
  rw [State.entry, h, Buffer.addr, Mem.read_fill_of_mem hi]

theorem State.operand_of_entry {s : State} {b : Buffer} {i : Nat} {x : Word} (h : s.entry b i = some x) :
    s.operand b i = x := by
  simp [State.operand, h]

end Sys2Proof.Machine
end

