-- ==== Sys2Proof/Laws/PerInstr.lean ====
section
/-! SUPPORT. Statements about every command as syntax, made constructor by constructor. -/

namespace Sys2Proof.Laws.Encodes

/-- A command is well formed, and its word has RSV = 0 and the OP of the opcode map (30_encoding.md R100, R101). -/
def Statement (i : Instr) : Prop :=
  i.wf = true ∧ Word.rsv (encode i) = 0 ∧ Word.op (encode i) = i.op ∧ i.op ∈ assignedOps ∧
  Word.isCommand (encode i) = true

theorem nop : Statement .nop := by unfold Statement; decide

theorem buildHann : Statement .buildHann := by unfold Statement; decide

theorem buildFb : Statement .buildFb := by unfold Statement; decide

theorem softReset : Statement .softReset := by unfold Statement; decide

theorem clearStatus : Statement .clearStatus := by unfold Statement; decide

theorem preemph : Statement .preemph := by unfold Statement; decide

theorem window : Statement .window := by unfold Statement; decide

theorem dft : Statement .dft := by unfold Statement; decide

theorem mag : Statement .mag := by unfold Statement; decide

theorem melfb : Statement .melfb := by unfold Statement; decide

theorem log : Statement .log := by unfold Statement; decide

theorem run : Statement .run := by unfold Statement; decide

end Sys2Proof.Laws.Encodes
end

