-- ==== Sys2Proof/Tests/Slice0.lean ====
section
/-! SUPPORT. Tests: expected values come from the spec's encodings and vectors (30_encoding.md R101, R107;
95_test_vectors.md), and for every obligation with hypotheses a witness that meets them. -/

namespace Sys2Proof.Tests

set_option Elab.async false

open Sys2Proof.Machine

/-! ## Helpers -/

/-- A state with the given words in a buffer. -/
def put (s : State) (b : Buffer) (ws : List Word) : State :=
  s.fillBuffer b ws.length (fun i => ws.getD i 0)

/-- The first n entries of a buffer. -/
def words (s : State) (b : Buffer) (n : Nat) : List (Option Word) := (List.range n).map (s.entry b)

/-- The state an outcome goes on with. -/
def result (o : Host.Outcome State Fault Refusal) (s : State) : State :=
  match o with
  | .next t => t
  | .fault _ => s
  | .refused _ => s

/-- Whether an outcome is a next state. -/
def ran (o : Host.Outcome State Fault Refusal) : Bool :=
  match o with
  | .next _ => true
  | .fault _ => false
  | .refused _ => false

theorem next_of_ran {o : Host.Outcome State Fault Refusal} {s : State} (h : ran o = true) :
    o = .next (result o s) := by
  cases o with
  | next t => rfl
  | fault e => cases h
  | refused e => cases h

/-- The state after a command. -/
def after (i : Instr) (s : State) : State := result (exec i s) s

/-- The state in which a word has been accepted and completes in the next step. -/
def accepted (w : Nat) (s : State) : State := s.withFetchWord 64 w

/-- Reset with another N, F and C. -/
def sized (n f c : Nat) : State :=
  { State.reset with cfgN := BitVec.ofNat 32 n, cfgF := BitVec.ofNat 32 f, cfgC := BitVec.ofNat 32 c }

def w0 : Word := 0x0000000000000000
def wHalf : Word := 0x3FE0000000000000
def wQuarter : Word := 0x3FD0000000000000
def w1 : Word := 0x3FF0000000000000
def wInf : Word := 0x7FF0000000000000
def wNegInf : Word := 0xFFF0000000000000
def wNaN : Word := 0x7FF8000000000000

/-- N = 5, F = 4, C = 2, α = 0.5 and SIN = [1, 1, 1, 1, 1] (95_test_vectors.md P1). -/
def p1 : State := put { sized 5 4 2 with cfgAlpha := wHalf } .sin [w1, w1, w1, w1, w1]

/-- P1 with WIN of its end state. -/
def withWin (n f : Nat) (ws : List Word) : State :=
  { put (sized n f 2) .win ws with winDesc := ⟨true, 0, BitVec.ofNat 32 n⟩ }

/-- RE and IM as given. -/
def withDft (re im : List Word) : State :=
  { put (put (sized 5 re.length 2) .re re) .im im with dftDesc := ⟨true, 0, BitVec.ofNat 32 re.length⟩ }

/-- The filter bank of V-FB-2 and AMP as given (F = 4, C = 2). -/
def withAmp (amp : List Word) : State :=
  { put (put (put (sized 5 4 2) .amp amp) (.fbw 0) [w1, w0]) (.fbw 1) [w0, w1] with
    ampDesc := ⟨true, 0, 4⟩
    fbDesc := ⟨true, 2, 2⟩ }

/-- MEL as given. -/
def withMel (mel : List Word) : State :=
  { put (sized 5 4 mel.length) .mel mel with melDesc := ⟨true, 0, BitVec.ofNat 32 mel.length⟩ }

/-! ## Well-formedness: each check refuses an ill-formed term -/

/-- 30_encoding.md R100, R101: OP not assigned. -/
theorem test_wf_refuses_unassigned_op : Word.isCommand 0x0000000000000003 = false := by decide

/-- RSV not 0, at its lowest and its highest bit. -/
theorem test_wf_refuses_reserved_bits :
    Word.isCommand 0x0000000000000110 = false ∧ Word.isCommand 0x8000000000000010 = false := by decide

theorem test_wf_accepts_preemph : Word.isCommand 0x0000000000000010 = true := by decide

/-- 00_scope.md R6: each bound of each capacity, just outside. -/
theorem test_params_refuse_each_bound :
    Params.legal ⟨.binary64, 1023, 65536, 64, .reference⟩ = false ∧
    Params.legal ⟨.binary64, 16777217, 65536, 64, .reference⟩ = false ∧
    Params.legal ⟨.binary64, 4096, 43999, 64, .reference⟩ = false ∧
    Params.legal ⟨.binary64, 4096, 16777217, 64, .reference⟩ = false ∧
    Params.legal ⟨.binary64, 4096, 65536, 19, .reference⟩ = false ∧
    Params.legal ⟨.binary64, 4096, 65536, 129, .reference⟩ = false := by decide

theorem test_params_accept_both_ends :
    Params.legal ⟨.binary32, 1024, 44000, 20, .other 0⟩ = true ∧
    Params.legal ⟨.binary64, 16777216, 16777216, 128, .reference⟩ = true := by decide

/-! ## Decoding: words written out from 30_encoding.md R101 -/

theorem test_decode_control :
    decodeTableWord 64 0x0000000000000000 = some .nop ∧
    decodeTableWord 64 0x000000000000000E = some .softReset ∧
    decodeTableWord 64 0x000000000000000F = some .clearStatus ∧
    decodeTableWord 64 0x0000000000000020 = some .run := by decide

theorem test_decode_tables :
    decodeTableWord 64 0x0000000000000001 = some .buildHann ∧
    decodeTableWord 64 0x0000000000000002 = some .buildFb := by decide

theorem test_decode_stages :
    decodeTableWord 64 0x0000000000000010 = some .preemph ∧
    decodeTableWord 64 0x0000000000000011 = some .window ∧
    decodeTableWord 64 0x0000000000000012 = some .dft ∧
    decodeTableWord 64 0x0000000000000013 = some .mag ∧
    decodeTableWord 64 0x0000000000000014 = some .melfb ∧
    decodeTableWord 64 0x0000000000000015 = some .log := by decide

theorem test_decode_refuses_by_name :
    decodeWord 0x0000000000000003 = .error .unassignedOp ∧
    decodeWord 0x0000000000000110 = .error .reservedBitsSet ∧
    decodeLanes [0x10, 0, 0, 0, 0, 0, 0] = .error .notOneWord ∧
    decodeLanes [0x10, 0, 0, 0, 0, 0, 0, 0] = .ok .preemph := by decide

/-- 30_encoding.md R107: the example encodings of bus transactions. -/
theorem test_bus_encodings :
    regAddr .cfgN = 0x00000010 ∧ entryAddr .logmel 3 = 0x09000003 ∧ entryAddr (.fbw 2) 17 = 0x82000011 ∧
    HostOp.command .preemph = .write 0x00000008 0x0000000000000010 ∧
    HostOp.ack = .write 0x00000009 0x0000000000000002 := by decide

/-! ## The fixed-point constants (log 18), from Machin's formula and two series -/

/-- `t/1 - t/(3 q²) + …`, or with + throughout, in fixed point with t = 2^b / q. -/
def oddSeries (alternate : Bool) (q2 : Nat) : Nat → Nat → Nat → Int
  | 0, _, _ => 0
  | fuel + 1, k, t =>
    (t / k : Nat) + (if alternate then -1 else 1) * oddSeries alternate q2 fuel (k + 2) (t / q2)

/-- π = 16·atan(1/5) - 4·atan(1/239), to within 2^-319. -/
theorem test_pi_constant :
    ((16 * oddSeries true 25 80 1 (2 ^ 340 / 5) - 4 * oddSeries true 57121 30 1 (2 ^ 340 / 239)) / 2 ^ 20 -
      (fixPi : Int)).natAbs ≤ 1 := by decide +kernel

/-- ln 2 = 2·atanh(1/3), to within 2^-319. -/
theorem test_ln2_constant :
    (2 * oddSeries false 9 120 1 (2 ^ 340 / 3) / 2 ^ 20 - (fixLn2 : Int)).natAbs ≤ 1 := by decide +kernel

/-- ln 10 = 3·ln 2 + 2·atanh(1/9), to within 2^-319. -/
theorem test_ln10_constant :
    ((6 * oddSeries false 9 120 1 (2 ^ 340 / 3) + 2 * oddSeries false 81 60 1 (2 ^ 340 / 9)) / 2 ^ 20 -
      (fixLn10 : Int)).natAbs ≤ 1 := by decide +kernel

/-! ## Numbers (00_scope.md R12 to R19) -/

/-- V-PRE-2: 1 - 0.97·1 in binary64; V-PRE-10: 0.1 - 0.97·0.1 in binary32. -/
theorem test_num_rounding :
    fsub .binary64 w1 (fmul .binary64 0x3FEF0A3D70A3D70A w1) = 0x3F9EB851EB851EC0 ∧
    fsub .binary32 0x3DCCCCCD (fmul .binary32 0x3F7851EC 0x3DCCCCCD) = 0x3B449BA0 := by decide +kernel

/-- V-MEL (2) and V-MEL (4): the mel converter both ways, correctly rounded. -/
theorem test_mel_converter :
    hzToMel Params.reference (num .binary64 100) = 0x4062CFB88E85636B ∧
    melToHz Params.reference 0x4062CFB88E85636B = 0x4058FFFFFFFFFFFD ∧
    melToHz Params.reference (hzToMel Params.reference (num .binary64 20000)) = 0x40D3880000000000 := by
  decide +kernel

/-! ## One step of each command (95_test_vectors.md) -/

/-- NOP: DONE, LASTOP 0x00. -/
theorem test_nop : (result (step (accepted 0x00 State.reset)) State.reset).status.word = 0x0000000000000002 := by
  decide +kernel

/-- CLEAR_STATUS after V-DROP-1 (42_control.md R184). -/
theorem test_clear_status :
    (fun t : State => (t.status.word, t.errInfo))
      (after .clearStatus { State.reset with status := ⟨false, false, true, true, true, 0x03, 0x11⟩, errInfo := 0x22 }) =
      (0x00000000000F0012, 0) := by decide +kernel

/-- SOFT_RESET (42_control.md R185): LASTOP and DONE are 0 too, and SIN is unwritten again. -/
theorem test_soft_reset :
    (fun t : State => (t.status.word, t.cfgN, t.sinW 0)) (after .softReset { p1 with irqEn := true }) =
      (0, 1024, false) := by decide +kernel

/-- V-HANN-2 and its descriptor. -/
theorem test_hann_5 :
    (fun t : State => (words t .hann 5, t.hannDesc.word)) (after .buildHann (sized 5 4 2)) =
      ([some w0, some wHalf, some w1, some wHalf, some w0], 0x8000000000000005) := by decide +kernel

/-- V-HANN-5. -/
theorem test_hann_6 :
    words (after .buildHann (sized 6 4 2)) .hann 6 =
      [some 0x0, some 0x3FD61C8864680B58, some 0x3FECF1BBCDCBFA54, some 0x3FECF1BBCDCBFA54,
       some 0x3FD61C8864680B58, some 0x0] := by decide +kernel

/-- V-FB-2 and its descriptor: a degenerate rising ramp. -/
theorem test_fb_4 :
    (fun t : State => (words t .fbIcenter 2, words t .fbIend 2, words t (.fbw 0) 2 ++ words t (.fbw 1) 2,
      t.fbDesc.word)) (after .buildFb (sized 5 4 2)) =
      ([some 0, some 1], [some 1, some 2], [some w1, some w0, some w0, some w1], 0x8000000200000002) := by
  decide +kernel

/-- V-FB-4: ramps of several bins, in the middle and at NYQ. -/
theorem test_fb_20 :
    (fun t : State => (words t .fbIcenter 3, words t (.fbw 1) 7)) (after .buildFb (sized 5 20 3)) =
      ([some 2, some 4, some 7],
       [some w0, some w0, some w0, some wHalf, some w1, some 0x3FE5555555555555, some 0x3FD5555555555555]) := by
  decide +kernel

/-- V-PRE-1. -/
theorem test_preemph_5 :
    words (after .preemph p1) .pre 5 = [some w1, some wHalf, some wHalf, some wHalf, some wHalf] := by
  decide +kernel

/-- V-PRE-8: PRE[0] copies a signalling NaN, PRE[1] is the canonical NaN. -/
theorem test_preemph_nan :
    words (after .preemph (put (sized 2 4 2) .sin [0x7FF0000000000001, w1])) .pre 2 =
      [some 0x7FF0000000000001, some wNaN] := by decide +kernel

/-- V-WIN-1. -/
theorem test_window_5 :
    words (after .window { put (put (sized 5 4 2) .pre [w1, wHalf, wHalf, wHalf, wHalf]) .hann
      [w0, wHalf, w1, wHalf, w0] with preDesc := ⟨true, 0, 5⟩, hannDesc := ⟨true, 0, 5⟩ }) .win 5 =
      [some w0, some wQuarter, some wHalf, some wQuarter, some w0] := by decide +kernel

/-- V-WIN-3: ∞ · 0 and -3 · 0. -/
theorem test_window_special :
    words (after .window { put (put (sized 2 4 2) .pre [wInf, 0xC008000000000000]) .hann [w0, w0] with
      preDesc := ⟨true, 0, 2⟩, hannDesc := ⟨true, 0, 2⟩ }) .win 2 =
      [some wNaN, some 0x8000000000000000] := by decide +kernel

/-- V-DFT-4: F below N. -/
theorem test_dft_folding :
    (fun t : State => (words t .re 3, words t .im 3))
      (after .dft (withWin 5 3 [w0, wQuarter, wHalf, wQuarter, w0])) =
      ([some w1, some 0xBFC0000000000000, some 0xBFC0000000000000],
       [some w0, some 0x3FCBB67AE8584CAA, some 0xBFCBB67AE8584CAA]) := by decide +kernel

/-- V-DFT-6: the sign of IM. -/
theorem test_dft_sign :
    (fun t : State => (words t .re 4, words t .im 4)) (after .dft (withWin 4 4 [w0, w1, w0, 0xBFF0000000000000])) =
      ([some w0, some w0, some w0, some w0],
       [some w0, some 0xC000000000000000, some w0, some 0x4000000000000000]) := by decide +kernel

/-- V-MAG-2. -/
theorem test_mag_345 :
    words (after .mag (withDft [0x4008000000000000] [0xC010000000000000])) .amp 1 =
      [some 0x4014000000000000] := by decide +kernel

/-- V-MAG-3 to V-MAG-6: overflow, underflow, NaN beside ∞, and -0. -/
theorem test_mag_special :
    words (after .mag (withDft [0x6974E718D7D7625A, 0x16687E92154EF7AC, wInf, 0x8000000000000000]
      [w0, w0, wNaN, 0x8000000000000000])) .amp 4 = [some wInf, some w0, some wNaN, some w0] := by decide +kernel

/-- V-MEL-2. -/
theorem test_melfb_4 :
    words (after .melfb (withAmp [w1, wHalf, w0, wHalf])) .mel 2 = [some w1, some wHalf] := by decide +kernel

/-- V-MEL-4: a weight of +0 times ∞. -/
theorem test_melfb_infinity :
    words (after .melfb (withAmp [wInf, w1, w0, w0])) .mel 2 = [some wInf, some wNaN] := by decide +kernel

/-- V-LOG-2. -/
theorem test_log_finite :
    (fun t : State => (words t .logmel 3, t.status.nf))
      (after .log (withMel [0x4059000000000000, 0x4024000000000000, 0x4000000000000000])) =
      ([some 0x4044000000000000, some 0x4034000000000000, some 0x4018151824C7587F], false) := by decide +kernel

/-- V-LOG-3: zeros, a negative number, ∞ and NaN; NF is set and nothing fails. -/
theorem test_log_special :
    (fun t : State => (words t .logmel 6, t.status.nf, t.status.err))
      (after .log (withMel [w0, 0x8000000000000000, 0xBFF0000000000000, wInf, wNaN, w1])) =
      ([some wNegInf, some wNegInf, some wNaN, some wInf, some wNaN, some w0], true, false) := by decide +kernel

/-- P1's end state, reached with RUN (42_control.md R187). -/
theorem test_run_p1 :
    (fun t : State => (words t .mel 2, words t .logmel 2, t.logDesc.word, t.status.word))
      (result (step (accepted 0x20 p1)) p1) =
      ([some w1, some wHalf], [some w0, some 0xC018151824C7587F], 0x8000000000000002, 0x0000000000200002) := by
  decide +kernel

/-- V-ERR-11: N is checked before C. -/
theorem test_run_config_error :
    (fun t : State => (t.status.word, t.errInfo)) (result (step (accepted 0x20 (sized 1 4 0))) State.reset) =
      (0x0000000000200204, 0x10) := by decide +kernel

/-! ## Errors, drops and the bus -/

/-- V-ERR-10: a word with RSV set. -/
theorem test_illegal_word :
    (fun t : State => (t.status.word, t.errInfo)) (result (step (accepted 0x110 State.reset)) State.reset) =
      (0x0000000000100104, 0x110) := by decide +kernel

/-- V-ERR-12: the lowest unwritten sample. -/
theorem test_uninit_index :
    (fun t : State => (t.status.word, t.errInfo))
      (after .preemph (put (sized 5 4 2) .sin [w1, w1, w1])) = (0x0000000000100504, 3) := by decide +kernel

/-- V-DROP-1: NOP under the error lock. -/
theorem test_drop_under_lock :
    (State.hostWrite { State.reset with status := ⟨false, false, true, false, false, 0x03, 0x11⟩ } 0x8 0x0).status.word =
      0x000000000011030C := by decide +kernel

/-- V-BUS-1 to V-BUS-5. -/
theorem test_bus_errors :
    (State.hostWrite State.reset 0x02000000 0x0).replies = [⟨false, some 0⟩] ∧
    (State.hostRead State.reset 0x0D000000).replies = [⟨false, some 0⟩] ∧
    (State.hostRead State.reset 0x01001000).replies = [⟨false, some 0⟩] ∧
    (State.hostWrite State.reset 0x00000000 0x0).replies = [⟨false, some 0⟩] ∧
    (State.hostRead State.reset 0x00000008).replies = [⟨true, some 0⟩] := by decide +kernel

/-! ## Witnesses: for each obligation with hypotheses, states and operands that meet them, clause by clause -/

/-- A busy state: a word accepted on P1, with d host turns before its completion. -/
def busyWith (w d : Nat) : State := { accepted w p1 with delay := d }

/-- The error lock of V-ERR-2. -/
def locked : State :=
  { State.reset with status := ⟨false, false, true, true, false, 0x03, 0x11⟩, errInfo := 0x22 }

/-- Reset with binary32. -/
def reset32 : State := State.resetOf { Params.reference with numFmt := .binary32 }

/-- Every descriptor of P1's sizes valid, and the buffers behind them filled with ones. -/
def p1Ready : State :=
  { put (put (put (put (put p1 .pre [w1, w1, w1, w1, w1]) .hann [w1, w1, w1, w1, w1]) .win
      [w1, w1, w1, w1, w1]) .mel [w1, w1]) .amp [w1, w1, w1, w1] with
    hannDesc := ⟨true, 0, 5⟩
    preDesc := ⟨true, 0, 5⟩
    winDesc := ⟨true, 0, 5⟩
    ampDesc := ⟨true, 0, 4⟩
    melDesc := ⟨true, 0, 2⟩ }

theorem witness_ByteLanesCarryTheWord : (0 : Nat) < 8 ∧ (7 : Nat) < 8 := by decide

theorem witness_EncodedCommandRunsInTheNextStep : Instr.wf .nop = true ∧ Instr.wf .run = true := by decide

theorem witness_ResetGivesEveryResetValue :
    State.reset.params.numFmt = .binary64 ∧ reset32.params.numFmt = .binary32 := by decide

theorem witness_IdentityAndCapacityRegisters :
    State.reset.params.legal = true ∧
    Params.legal ⟨.binary32, 16777216, 16777216, 128, .other 0⟩ = true := by decide

theorem witness_StatusRegisterFields :
    (0x0000000000000002#64).getLsbD 1 = true ∧ (0xFFFFFFFFFFFFFFFD#64).getLsbD 1 = false := by decide

theorem witness_ConfigurationRegisters :
    State.reset.status.busy = false ∧ State.reset.params.numFmt = .binary64 ∧
    reset32.status.busy = false ∧ reset32.params.numFmt = .binary32 := by decide

/-- The first and the last entry of the map. -/
theorem witness_AddressMapHasNoAlias :
    Params.legal Params.reference = true ∧ 4095 < Buffer.capacity Params.reference .sin ∧
    32767 < Buffer.capacity Params.reference (.fbw 63) ∧ 63 < Params.reference.cMax ∧
    ¬ 64 < Params.reference.cMax ∧
    select Params.reference 0x01000000 = some (.entry .sin 0) ∧
    select Params.reference 0xBF007FFF = some (.entry (.fbw 63) 32767) ∧
    select Params.reference 0x00000027 = some (.reg (.desc .log)) := by decide

theorem witness_BusErrorsChangeNothing :
    select Params.reference 0x01001000 = none ∧ select Params.reference 0xC0000000 = none ∧
    select Params.reference 0x00000028 = none ∧
    select Params.reference 0x0000000B = some (.reg .errInfo) ∧
    select Params.reference 0x00000020 = some (.reg (.desc .hann)) ∧
    select Params.reference 0x0900003F = some (.entry .logmel 63) ∧
    select Params.reference 0x00000008 = some (.reg .cmd) ∧
    select Params.reference 0x01000FFF = some (.entry .sin 4095) := by decide

/-- An entry that is produced and within its descriptor; one beyond it; one in the pending command's write set; and one
without a value. -/
theorem witness_EntryReadReturnsItsValueOrAFreeWord :
    (select p1Ready.params 0x02000004 = some (.entry .pre 4) ∧ p1Ready.entry .pre 4 = some w1 ∧
      p1Ready.inWriteSet .pre 4 = false ∧ p1Ready.withinDesc .pre 4 = true) ∧
    (select p1Ready.params 0x02000005 = some (.entry .pre 5) ∧ p1Ready.withinDesc .pre 5 = false) ∧
    (accepted 0x10 p1Ready).inWriteSet .pre 4 = true ∧
    p1.entry .sin 5 = none := by decide +kernel

theorem witness_WriteSetsOfPendingCommands :
    p1.status.busy = false ∧
    (∀ w ∈ [0x00, 0x0F, 0x01, 0x02, 0x10, 0x11, 0x12, 0x13, 0x14, 0x15, 0x20, 0x0E, 0x03],
      (accepted w p1).status.busy = true ∧ (accepted w p1).pending = some (BitVec.ofNat 64 w)) ∧
    (∀ cmd, (0x0000000000000003 : Word) ≠ encode cmd) := by
  refine ⟨by decide, by decide, ?_⟩
  intro cmd; cases cmd <;> decide

theorem witness_WrittenSampleIsReadBack :
    State.reset.params.legal = true ∧ State.reset.status.busy = false ∧ 0 < State.reset.params.nMax ∧
    4095 < State.reset.params.nMax ∧ reset32.params.legal = true ∧ reset32.params.numFmt = .binary32 := by decide

theorem witness_WritesWhileBusyAreDropped :
    (busyWith 0x20 3).status.busy = true ∧
    select (busyWith 0x20 3).params 0x00000008 = some (.reg .cmd) ∧
    select (busyWith 0x20 3).params 0x00000013 = some (.reg .cfgAlpha) ∧
    select (busyWith 0x20 3).params 0x01000000 = some (.entry .sin 0) ∧
    select (busyWith 0x20 3).params 0x0000000A = some (.reg .ctrl) ∧
    select (busyWith 0x20 3).params 0x00000009 = some (.reg .status) ∧
    (0x2#64).getLsbD 1 = true ∧ (0x0#64).getLsbD 1 = false := by decide +kernel

theorem witness_ControlRegister :
    ({ State.reset with irqEn := true, status := ⟨false, true, false, false, false, 0x00, 0x00⟩ } : State).irq =
      true := by decide

theorem witness_CommandAcceptance :
    (busyWith 0x20 3).status.busy = true ∧
    (locked.status.busy = false ∧ locked.status.err = true) ∧
    (State.reset.status.busy = false ∧ State.reset.status.err = false) := by decide +kernel

/-- CLEAR_STATUS completes under the error lock. -/
theorem witness_ErrorLockIsLeftOnlyByClearOrReset :
    step (accepted 0x0F locked) = .next (result (step (accepted 0x0F locked)) locked) ∧
    (accepted 0x0F locked).status.err = true ∧
    (result (step (accepted 0x0F locked)) locked).status.err = false := by
  exact ⟨next_of_ran (by decide +kernel), by decide +kernel⟩

/-- A dropped command word sets DROPPED, and CLEAR_STATUS clears it. -/
theorem witness_DroppedChangesOnlyByDiscardClearOrReset :
    (fun s : State => step s = .next (result (step s) s) ∧ s.status.dropped = false ∧
      (result (step s) s).status.dropped = true) { busyWith 0x20 1 with events := [.command .nop] } ∧
    (fun s : State => step s = .next (result (step s) s) ∧ s.status.dropped = true ∧
      (result (step s) s).status.dropped = false) (accepted 0x0F locked) := by
  exact ⟨⟨next_of_ran (by decide +kernel), by decide +kernel⟩,
    next_of_ran (by decide +kernel), by decide +kernel⟩

/-- LOG of a zero energy. -/
theorem witness_NonFiniteFlagChangesOnlyByLogRunOrReset :
    (fun s : State => step s = .next (result (step s) s) ∧ (result (step s) s).status.nf ≠ s.status.nf)
      (accepted 0x15 (withMel [w0])) := by
  exact ⟨next_of_ran (by decide +kernel), by decide +kernel⟩

/-- The host writes NOP to CMD with one delay given; a pending NOP completes. -/
theorem witness_BusyChangesOnlyByAcceptanceAndCompletion :
    (fun s : State => step s = .next (result (step s) s) ∧ s.status.busy = false ∧
      (result (step s) s).status.busy = true)
      { State.reset with events := [.command .nop], latency := [0] } ∧
    (fun s : State => step s = .next (result (step s) s) ∧ s.status.busy = true ∧
      (result (step s) s).status.busy = false) (accepted 0x00 State.reset) := by
  exact ⟨⟨next_of_ran (by decide +kernel), by decide +kernel⟩,
    next_of_ran (by decide +kernel), by decide +kernel⟩

theorem witness_DescriptorsChangeOnlyByTheirProducers :
    (fun s : State => step s = .next (result (step s) s) ∧ (result (step s) s).desc .hann ≠ s.desc .hann)
      (accepted 0x01 (sized 5 4 2)) := by
  exact ⟨next_of_ran (by decide +kernel), by decide +kernel⟩

theorem witness_HostCannotDisturbAPendingCommand :
    (busyWith 0x01 3).status.busy = true ∧ (HostOp.write 0x01000000 0x5 ≠ .resetPin) ∧
    (HostOp.write 0x01000000 0x5 ≠ .resetInFlight) ∧
    exec .buildHann (busyWith 0x01 3) = .next (after .buildHann (busyWith 0x01 3)) := by
  exact ⟨by decide +kernel, by decide, by decide, next_of_ran (by decide +kernel)⟩

theorem witness_PendingCommandCompletes :
    (fun s : State => s.status.busy = true ∧ s.pending = some 0x01 ∧
      (∀ e ∈ s.events, e ≠ .resetPin ∧ e ≠ .resetInFlight) ∧ 2 ≤ s.delay)
      { busyWith 0x01 2 with events := [.wait, .command .nop] } := by decide +kernel

theorem witness_StepRunsTheDecodedCommand :
    ((accepted 0x01 p1).status.busy = true ∧ (accepted 0x01 p1).delay = 0 ∧
      (accepted 0x01 p1).pending = some 0x01 ∧ decodeWord 0x01 = .ok .buildHann) ∧
    ((busyWith 0x01 3).status.busy = true ∧ (busyWith 0x01 3).delay = 2 + 1) ∧
    (p1.status.busy = false ∧ p1.events = []) ∧
    ({ p1 with events := [.wait] } : State).events = .wait :: [] := by decide +kernel

/-- RSV set beside an assigned OP, and an unassigned OP. -/
theorem witness_IllegalWordCompletesWithError :
    (∀ w ∈ [0x110, 0x03], (accepted w p1).status.busy = true ∧ (accepted w p1).delay = 0 ∧
      (accepted w p1).pending = some (BitVec.ofNat 64 w) ∧ (accepted w p1).status.err = false) ∧
    (0x0000000000000110 : Word).extractLsb' 8 56 ≠ 0 ∧
    (0x0000000000000003 : Word).extractLsb' 0 8 ∉
      [0x00#8, 0x01#8, 0x02#8, 0x0E#8, 0x0F#8, 0x10#8, 0x11#8, 0x12#8, 0x13#8, 0x14#8, 0x15#8, 0x20#8] := by
  decide +kernel

theorem witness_ErrorEntryWritesStatusOnly :
    State.reset.status.err = false ∧ locked.status.err = true := by decide

/-- Each register just outside its range at either end, the registers before it just inside. -/
theorem witness_ConfigurationRangeErrors :
    (∀ s ∈ [sized 1 4 2, sized 4097 4 2], ¬ (2 ≤ s.n ∧ s.n ≤ s.params.nMax)) ∧
    ¬ (sized 4097 4 2).n ≤ (sized 4097 4 2).params.nMax ∧
    (∀ s ∈ [sized 2 0 2, sized 4096 65537 2], ¬ (1 ≤ s.f ∧ s.f ≤ s.params.fMax)) ∧
    (∀ s ∈ [sized 2 1 2, sized 4096 65537 2],
      ¬ (2 ≤ s.f ∧ s.f ≤ s.params.fMax) ∧ 2 ≤ s.n ∧ s.n ≤ s.params.nMax) ∧
    (∀ s ∈ [sized 2 2 0, sized 4096 65536 65],
      ¬ (1 ≤ s.c ∧ s.c ≤ s.params.cMax) ∧ 2 ≤ s.f ∧ s.f ≤ s.params.fMax ∧ 2 ≤ s.n ∧ s.n ≤ s.params.nMax) := by
  decide +kernel

/-- Each descriptor not valid, and valid with another length; FB_DESC also with another channel count. -/
theorem witness_DescriptorErrors :
    (2 ≤ p1.n ∧ p1.n ≤ p1.params.nMax ∧ 1 ≤ p1.f ∧ 2 ≤ p1.f ∧ p1.f ≤ p1.params.fMax ∧ 1 ≤ p1.c ∧
      p1.c ≤ p1.params.cMax) ∧
    (p1.preDesc.fails p1.n 0x22 ⟨.notReady, 0x22⟩ ∧ p1.winDesc.fails p1.n 0x23 ⟨.notReady, 0x23⟩ ∧
      p1.dftDesc.fails p1.f 0x24 ⟨.notReady, 0x24⟩ ∧ p1.ampDesc.fails p1.f 0x25 ⟨.notReady, 0x25⟩ ∧
      p1.melDesc.fails p1.c 0x26 ⟨.notReady, 0x26⟩) ∧
    (Desc.ready ⟨true, 0, 5⟩ p1.n ∧ p1.hannDesc.fails p1.n 0x20 ⟨.notReady, 0x20⟩ ∧
      Desc.fails ⟨true, 0, 6⟩ p1.n 0x20 ⟨.length, 0x20⟩) ∧
    (Desc.ready ⟨true, 0, 4⟩ p1.f ∧ p1.fbDesc.v = false ∧ (Desc.mk true 3 2).v = true ∧
      (Desc.mk true 3 2).len.toNat = p1.f / 2 ∧ (Desc.mk true 3 2).ch.toNat ≠ p1.c) := by
  unfold Desc.fails Desc.ready; decide +kernel

/-- SIN[0, 1, 2, 4] written, N = 5 (V-ERR-12). -/
theorem witness_UnwrittenSampleErrors :
    (fun s : State => 3 < s.n ∧ s.sinW 3 = false ∧ (∀ i, i < 3 → s.sinW i = true) ∧ s.n ≤ s.params.nMax ∧
      s.runConfig) (put (sized 5 4 2) .sin [w1, w1, w1]) := by
  unfold State.runConfig; decide +kernel

theorem witness_FailedCommandKeepsEverythingElse :
    exec .window p1 = .next (after .window p1) ∧ p1.status.err = false ∧
    (after .window p1).status.err = true := by
  exact ⟨next_of_ran (by decide +kernel), by decide +kernel⟩

theorem witness_NopCompletes : locked.status.err = true := by decide

/-- N = 2 and N = N_MAX. -/
theorem witness_BuildHannCompletes :
    ∀ s ∈ [sized 2 4 2, sized 4096 4 2], 2 ≤ s.n ∧ s.n ≤ s.params.nMax := by decide +kernel

/-- The least and the greatest F and C. -/
theorem witness_BuildFbCompletes :
    ∀ s ∈ [sized 5 2 1, sized 5 65536 64], s.params.legal = true ∧ 2 ≤ s.f ∧ s.f ≤ s.params.fMax ∧ 1 ≤ s.c ∧
      s.c ≤ s.params.cMax := by decide +kernel

/-- N = 0 (90_conflicts.md C2), and P1. -/
theorem witness_PreemphCompletes :
    (∀ s ∈ [sized 0 4 2, p1], s.n ≤ s.params.nMax ∧ s.samplesWritten) ∧ 0 < p1.n ∧ 4 < p1.n ∧
    p1.entry .sin 4 = some w1 ∧ p1.entry .sin 3 = some w1 := by
  unfold State.samplesWritten; decide +kernel

theorem witness_WindowCompletes :
    2 ≤ p1Ready.n ∧ p1Ready.n ≤ p1Ready.params.nMax ∧ p1Ready.preDesc.ready p1Ready.n ∧
    p1Ready.hannDesc.ready p1Ready.n ∧ 4 < p1Ready.n ∧ p1Ready.entry .pre 4 = some w1 ∧
    p1Ready.entry .hann 4 = some w1 := by
  unfold Desc.ready; decide +kernel

theorem witness_DftCompletes :
    p1Ready.params.legal = true ∧ 1 ≤ p1Ready.f ∧ p1Ready.f ≤ p1Ready.params.fMax ∧
    p1Ready.winDesc.ready p1Ready.n ∧ (∀ k, k < p1Ready.n → p1Ready.entry .win k = some ((fun _ => w1) k)) := by
  unfold Desc.ready; decide +kernel

theorem witness_MagCompletes :
    (fun s : State => 1 ≤ s.f ∧ s.f ≤ s.params.fMax ∧ s.dftDesc.ready s.f ∧ s.entry .re 0 = some w1 ∧
      s.entry .im 0 = some w0) (withDft [w1] [w0]) := by
  unfold Desc.ready; decide +kernel

theorem witness_MelfbCompletes :
    (fun s : State => 2 ≤ s.f ∧ s.f ≤ s.params.fMax ∧ 1 ≤ s.c ∧ s.c ≤ s.params.cMax ∧ s.ampDesc.ready s.f ∧
      s.fbDesc.ready (s.f / 2) ∧ s.fbDesc.ch.toNat = s.c ∧
      (∀ i, i < s.f / 2 → s.entry .amp i = some ((fun _ => w1) i)) ∧
      (∀ k, k < s.c → ∀ i, i < s.f / 2 → s.entry (.fbw k) i = some (if k = i then w1 else w0)))
      (withAmp [w1, w1, w0, w0]) := by
  unfold Desc.ready; decide +kernel

theorem witness_LogCompletes :
    (fun s : State => 1 ≤ s.c ∧ s.c ≤ s.params.cMax ∧ s.melDesc.ready s.c ∧
      (∀ k, k < s.c → s.entry .mel k = some ((fun _ => w1) k))) (withMel [w1]) := by
  unfold Desc.ready; decide +kernel

/-- The least sizes of RUN, and P1. -/
theorem witness_RunCompletes :
    ∀ s ∈ [put (sized 2 2 1) .sin [w1, w1], p1], s.params.legal = true ∧ s.runConfig ∧ s.samplesWritten := by
  unfold State.runConfig State.samplesWritten; decide +kernel

theorem witness_RunEqualsTheEightCommands :
    p1.params.legal = true ∧ p1.runConfig ∧ p1.samplesWritten := by
  unfold State.runConfig State.samplesWritten; decide +kernel

/-- V-ZERO. -/
theorem witness_ZeroFrameGivesMinusInfinity :
    (fun s : State => s.params.legal = true ∧ s.runConfig ∧
      (∀ i, i < s.n → s.entry .sin i = some (zeroNum s.params.numFmt false)) ∧
      isFinite s.params.numFmt s.cfgAlpha = true ∧
      (∀ i, i < s.n → isFinite s.params.numFmt (hannValue s.params s.n i) = true) ∧
      (∀ j, j < s.f → isFinite s.params.numFmt (cosT s.params j s.f) = true ∧
        isFinite s.params.numFmt (sinT s.params j s.f) = true))
      (put (sized 5 4 2) .sin [w0, w0, w0, w0, w0]) := by
  unfold State.runConfig; decide +kernel

theorem witness_HannEndpointsAreZero : (2 : Nat) ≤ 2 := by decide

/-- V-FB-4, channel 1: below its start, and at its end; and the greatest NYQ. -/
theorem witness_FilterWeightsHaveTheirSupport :
    (1 : Nat) < 3 ∧ iStart Params.reference 10 3 1 ≤ iCenter Params.reference 10 3 1 ∧
    1 < iStart Params.reference 10 3 1 ∧
    max (iEnd Params.reference 10 3 1) (iCenter Params.reference 10 3 1 + 1) ≤ 7 ∧
    Params.reference.legal = true ∧ 10 ≤ Params.reference.fMax / 2 ∧ 32768 ≤ Params.reference.fMax / 2 := by
  decide +kernel

theorem witness_FloorIndexIsTheClampedFloor :
    unpack .binary64 wNaN = .nan ∧ unpack .binary64 wNegInf = .inf true ∧ unpack .binary64 wInf = .inf false ∧
    unpack .binary64 0x8000000000000000 = .fin true 0 (-1074) ∧
    unpack .binary64 w1 = .fin false (2 ^ 52) (-52) := by decide

/-- 1/3; a tie: 2^53 + 1 lies midway between two numbers; and either side of the overflow bound. -/
theorem witness_RoundingIsToNearestTiesToEven :
    (0 : Nat) < 3 ∧ unpack .binary64 (roundNum .binary64 false 1 3 0) = .fin false 0x15555555555555 (-54) ∧
    unpack .binary64 (roundNum .binary64 false (2 ^ 53 + 1) 1 0) = .fin false (2 ^ 52) 1 ∧
    unpack .binary64 0x4340000000000001 = .fin false (2 ^ 52 + 1) 1 ∧
    |((2 ^ 52 : Nat) : ℚ) * (2 : ℚ) ^ (1 : Int) - ((2 ^ 53 + 1 : Nat) : ℚ) / ((1 : Nat) : ℚ) * (2 : ℚ) ^ (0 : Int)| =
      |((2 ^ 52 + 1 : Nat) : ℚ) * (2 : ℚ) ^ (1 : Int) -
        ((2 ^ 53 + 1 : Nat) : ℚ) / ((1 : Nat) : ℚ) * (2 : ℚ) ^ (0 : Int)| ∧
    ((2 ^ 52 : Nat) : ℚ) * (2 : ℚ) ^ (1 : Int) ≠ ((2 ^ 52 + 1 : Nat) : ℚ) * (2 : ℚ) ^ (1 : Int) ∧
    roundNum .binary64 true (2 ^ 54 - 1) 1 970 = infNum .binary64 true ∧
    roundNum .binary32 false (2 ^ 25 - 1) 1 103 = infNum .binary32 false ∧
    unpack .binary64 (roundNum .binary64 true (2 ^ 64 - 1025) 1 960) = .fin true (2 ^ 53 - 1) 971 := by
  refine ⟨by decide, ?_, ?_, ?_, ?_, ?_, ?_⟩ <;> first | norm_num; done | decide +kernel

/-- 1 and -1: an exact sum of 0, and an exact difference of 2; both zeros and infinities for `fneg`; both ends for
`num`. -/
theorem witness_BasicOperationsRoundTheExactResult :
    unpack .binary64 w1 = .fin false (2 ^ 52) (-52) ∧
    unpack .binary64 0xBFF0000000000000 = .fin true (2 ^ 52) (-52) ∧ (2 ^ 52 : Nat) ≠ 0 ∧
    (((0 : Int) : ℚ) * (2 : ℚ) ^ (min (-52) (-52) : Int) =
      (if false then -1 else 1) * ((2 ^ 52 : Nat) : ℚ) * (2 : ℚ) ^ (-52 : Int) +
        (if true then -1 else 1) * ((2 ^ 52 : Nat) : ℚ) * (2 : ℚ) ^ (-52 : Int)) ∧
    (((2 ^ 53 : Int) : ℚ) * (2 : ℚ) ^ (min (-52) (-52) : Int) =
      (if false then -1 else 1) * ((2 ^ 52 : Nat) : ℚ) * (2 : ℚ) ^ (-52 : Int) -
        (if true then -1 else 1) * ((2 ^ 52 : Nat) : ℚ) * (2 : ℚ) ^ (-52 : Int)) ∧
    unpack .binary64 0x8000000000000000 = .fin true 0 (-1074) ∧ unpack .binary64 wNegInf = .inf true ∧
    unpack .binary64 wInf ≠ .nan ∧ 2 ^ 24 - 1 < 2 ^ 24 := by
  refine ⟨by decide, by decide, by decide, ?_, ?_, by decide, by decide, by decide, by decide⟩ <;> norm_num

theorem witness_SpecialValuesAndCanonicalNaN :
    unpack .binary64 (fadd .binary64 wInf wNegInf) = .nan ∧ unpack .binary64 wNaN = .nan ∧
    unpack .binary64 wInf = .inf false ∧ unpack .binary64 wNegInf = .inf (!false) ∧
    unpack .binary64 w0 = .fin false 0 (-1074) ∧
    unpack .binary64 0xBFF0000000000000 = .fin true (2 ^ 52) (-52) ∧ (2 ^ 52 : Nat) ≠ 0 := by decide

/-- -1 and NaN for `log10F`; a NaN that a primitive returns; and every fraction of a turn that R16 writes out. -/
theorem witness_TranscendentalExactCases :
    (unpack Params.reference.numFmt 0xBFF0000000000000 = .fin true (2 ^ 52) (-52) ∧ (2 ^ 52 : Nat) ≠ 0 ∧
      unpack Params.reference.numFmt wNaN = .nan ∧
      unpack Params.reference.numFmt (log10F Params.reference wNaN) = .nan ∧ Params.reference.numf = .reference) ∧
    (4 * 1 = 4 ∧ 2 * 1 = 2 ∧ 4 * 3 = 3 * 4 ∧ 6 * 1 = 6 ∧ 6 * 5 = 5 * 6 ∧ 3 * 1 = 3 ∧ 3 * 2 = 2 * 3) ∧
    (1 < 4 ∧ 1 < 2 ∧ 3 < 4 ∧ 1 < 6 ∧ 5 < 6 ∧ 1 < 3 ∧ 2 < 3) := by decide +kernel

theorem witness_InterruptLevel :
    p1.status.err = false ∧ p1.status.busy = false ∧ exec .clearStatus p1 = .next (after .clearStatus p1) ∧
    exec .softReset p1 = .next (after .softReset p1) := by
  exact ⟨by decide +kernel, by decide +kernel, next_of_ran (by decide +kernel),
    next_of_ran (by decide +kernel)⟩

/-- CLEAR_STATUS pending under the error lock, and RUN pending without an error. -/
theorem witness_StepKeepsTheCommandInvariant :
    (accepted 0x0F locked).commandInv ∧ (busyWith 0x20 3).commandInv := by
  unfold State.commandInv; decide +kernel

theorem witness_StepKeepsTheErrorInvariant :
    (fun s : State => s.errorInv ∧ step s = .next (result (step s) s)) (accepted 0x0F locked) := by
  refine ⟨?_, next_of_ran (by decide +kernel)⟩
  unfold State.errorInv; decide +kernel

theorem witness_StepKeepsTheMemoryInMap :
    (fun s : State => s.memInv ∧ s.mapInv ∧ step s = .next (result (step s) s))
      (accepted 0x01 (put (sized 5 4 2) .sin [w1])) := by
  refine ⟨by unfold State.memInv; decide +kernel, ?_, next_of_ran (by decide +kernel)⟩
  intro a h
  have hm : (accepted 0x01 (put (sized 5 4 2) .sin [w1])).mem = [(0x01000000, w1)] := by decide +kernel
  rw [hm] at h
  by_cases ha : 0x01000000 = a
  · exact ⟨.sin, 0, ha.symm, by decide⟩
  · simp [Mem.read, ha] at h

/-- P1Ready with the filter bank of V-FB-2 too. -/
def p1Bank : State :=
  { put (put (put (put (put p1Ready .fbIstart [0, 0]) .fbIcenter [0, 1]) .fbIend [1, 2]) (.fbw 0) [w1, w0])
      (.fbw 1) [w0, w1] with fbDesc := ⟨true, 2, 2⟩ }

theorem witness_StepKeepsTheDescriptorInvariant :
    (fun s : State => s.descInv ∧ step s = .next (result (step s) s)) (accepted 0x01 p1Bank) := by
  have plain : ∀ x ∈ [(DescName.hann, Buffer.hann), (.pre, .pre), (.win, .win), (.dft, .re), (.dft, .im),
      (.amp, .amp), (.mel, .mel), (.log, .logmel)], (accepted 0x01 p1Bank).descCovers x.1 x.2 := by
    unfold State.descCovers; decide +kernel
  have rows : ∀ k, k < 2 → ∀ i, i < 2 → ((accepted 0x01 p1Bank).entry (.fbw k) i).isSome = true := by
    decide +kernel
  simp only [List.forall_mem_cons] at plain
  obtain ⟨hann, pre, win, re, im, amp, mel, log, -⟩ := plain
  refine ⟨⟨hann, pre, win, re, im, amp, mel, log, ?_⟩, next_of_ran (by decide +kernel)⟩
  unfold State.fbCovers
  exact ⟨by decide +kernel, by decide +kernel, fun k i hk hi => rows k hk i hi⟩

theorem witness_StepKeepsNumWordsInFormat :
    (fun s : State => s.numInv ∧ step s = .next (result (step s) s))
      (accepted 0x01 (put { reset32 with cfgN := 5 } .sin [0x3F800000])) := by
  refine ⟨⟨by decide +kernel, ?_⟩, next_of_ran (by decide +kernel)⟩
  intro a w h
  have hm : (accepted 0x01 (put { reset32 with cfgN := 5 } .sin [0x3F800000])).mem = [(0x01000000, 0x3F800000)] := by
    decide +kernel
  rw [hm] at h
  by_cases ha : 0x01000000 = a
  · simp [Mem.read, ha] at h; subst h; decide +kernel
  · simp [Mem.read, ha] at h

end Sys2Proof.Tests
end

section
/-! PROOFS. The rounding that every operation ends in (00_scope.md R13) and the floor of `floorIdx` (R18), as facts
about rational numbers. -/

namespace Sys2Proof.Machine

/-! ### Powers of two with an integer exponent -/

/-- The two natural powers by which the model scales by `2^a` without leaving the integers. -/
theorem two_pow_toNat_div (a : Int) : (2 : ℚ) ^ a.toNat / (2 : ℚ) ^ (-a).toNat = (2 : ℚ) ^ a := by
  rw [← zpow_natCast, ← zpow_natCast, ← zpow_sub₀ two_ne_zero]
  congr 1; omega

theorem two_pow_toNat_of_nonneg {a : Int} (h : 0 ≤ a) : (2 : ℚ) ^ a.toNat = (2 : ℚ) ^ a := by
  rw [← zpow_natCast, Int.toNat_of_nonneg h]

/-! ### floorIdx -/

/-- The model's integer quotient is the floor of the rational number. -/
theorem mul_two_pow_toNat_div_eq_floor (m : Nat) (e : Int) :
    m * 2 ^ e.toNat / 2 ^ (-e).toNat = ⌊(m : ℚ) * (2 : ℚ) ^ e⌋₊ := by
  rw [← two_pow_toNat_div e, ← mul_div_assoc, ← Nat.floor_div_eq_div (K := ℚ)]
  push_cast; rfl

theorem floorIdx_of_fin {f : NumFmt} {w : Word} {neg : Bool} {m : Nat} {e : Int} (h : unpack f w = .fin neg m e)
    (l : Nat) : floorIdx f w l = if neg then 0 else min ⌊(m : ℚ) * (2 : ℚ) ^ e⌋₊ l := by
  simp [floorIdx, h, mul_two_pow_toNat_div_eq_floor]

/-! ### Rounding -/

/-- `roundDiv` is within half a unit of the quotient, and even where it is exactly half a unit away. -/
theorem roundDiv_spec (a : Nat) {b : Nat} (hb : 0 < b) :
    2 * |(roundDiv a b : ℚ) - (a : ℚ) / b| ≤ 1 ∧
    (2 * |(roundDiv a b : ℚ) - (a : ℚ) / b| = 1 → roundDiv a b % 2 = 0) := by
  have hb' : (0 : ℚ) < b := by exact_mod_cast hb
  have ha : (a : ℚ) / b = (a / b : Nat) + (a % b : Nat) / (b : ℚ) := by
    rw [div_eq_iff hb'.ne', add_mul, div_mul_cancel₀ _ hb'.ne', mul_comm]
    exact_mod_cast (Nat.div_add_mod a b).symm
  have hr : a % b < b := Nat.mod_lt _ hb
  unfold roundDiv
  rw [ha]
  generalize a / b = q at *
  generalize a % b = r at *
  have hr0 : (0 : ℚ) ≤ r / (b : ℚ) := by positivity
  have hr1 : (r : ℚ) / b < 1 := by rw [div_lt_one hb']; exact_mod_cast hr
  have lt_iff : b < 2 * r ↔ (1 : ℚ) < 2 * (r / (b : ℚ)) := by
    rw [← mul_div_assoc, one_lt_div hb']; exact_mod_cast Iff.rfl
  have eq_iff : 2 * r = b ↔ 2 * ((r : ℚ) / b) = 1 := by
    rw [← mul_div_assoc, div_eq_one_iff_eq hb'.ne']; exact_mod_cast Iff.rfl
  simp only [lt_iff, eq_iff]
  generalize (r : ℚ) / b = t at *
  split
  next h =>
    rw [show ((q + 1 : Nat) : ℚ) - (q + t) = 1 - t by push_cast; ring, abs_of_pos (by linarith)]
    refine ⟨by rcases h with h | h <;> linarith, fun h' => ?_⟩
    rcases h with h | h
    · linarith
    · omega
  next h =>
    push Not at h
    rw [show (q : ℚ) - (q + t) = -t by ring, abs_neg, abs_of_nonneg hr0]
    exact ⟨h.1, fun h' => by have := h.2 h'; omega⟩

/-- `leadExp` is the exponent of the leading bit. -/
theorem leadExp_spec {n d : Nat} (hn : n ≠ 0) (hd : 0 < d) :
    (2 : ℚ) ^ leadExp n d ≤ (n : ℚ) / d ∧ (n : ℚ) / d < (2 : ℚ) ^ (leadExp n d + 1) := by
  have hd' : (0 : ℚ) < d := by exact_mod_cast hd
  have n_ge : (2 : ℚ) ^ (n.log2 : Int) ≤ n := by
    rw [zpow_natCast]; exact_mod_cast Nat.log2_self_le hn
  have n_lt : (n : ℚ) < (2 : ℚ) ^ ((n.log2 : Int) + 1) := by
    rw [← Nat.cast_succ, zpow_natCast]; exact_mod_cast Nat.lt_log2_self
  have d_ge : (2 : ℚ) ^ (d.log2 : Int) ≤ d := by
    rw [zpow_natCast]; exact_mod_cast Nat.log2_self_le hd.ne'
  have d_lt : (d : ℚ) < (2 : ℚ) ^ ((d.log2 : Int) + 1) := by
    rw [← Nat.cast_succ, zpow_natCast]; exact_mod_cast Nat.lt_log2_self
  have test : ∀ k : Int, n * 2 ^ (-k).toNat < d * 2 ^ k.toNat ↔ (n : ℚ) / d < (2 : ℚ) ^ k := by
    intro k
    rw [← two_pow_toNat_div k, div_lt_div_iff₀ hd' (by positivity), mul_comm ((2 : ℚ) ^ k.toNat)]
    exact_mod_cast Iff.rfl
  unfold leadExp
  simp only [test]
  split
  next h =>
    refine ⟨?_, by simpa using h⟩
    rw [le_div_iff₀ hd']
    calc (2 : ℚ) ^ ((n.log2 : Int) - d.log2 - 1) * d
        ≤ 2 ^ ((n.log2 : Int) - d.log2 - 1) * 2 ^ ((d.log2 : Int) + 1) := by gcongr
      _ = 2 ^ (n.log2 : Int) := by rw [← zpow_add₀ two_ne_zero]; congr 1; ring
      _ ≤ n := n_ge
  next h =>
    refine ⟨not_lt.1 h, ?_⟩
    rw [div_lt_iff₀ hd']
    calc (n : ℚ) < 2 ^ ((n.log2 : Int) + 1) := n_lt
      _ = 2 ^ ((n.log2 : Int) - d.log2 + 1) * 2 ^ (d.log2 : Int) := by
        rw [← zpow_add₀ two_ne_zero]; congr 1; ring
      _ ≤ 2 ^ ((n.log2 : Int) - d.log2 + 1) * d := by gcongr

/-- What the rounding of a positive `x` chooses: a unit `2^u`, no finer than the format's least and otherwise the one
that gives `x` a full significand, and the integer `q` of units nearest to `x`, ties to even. -/
structure IsRounding (f : NumFmt) (x : ℚ) (u : Int) (q : Nat) : Prop where
  minExp_le : minExp f ≤ u
  near : 2 * |(q : ℚ) * 2 ^ u - x| ≤ 2 ^ u
  even_of_tie : 2 * |(q : ℚ) * 2 ^ u - x| = 2 ^ u → q % 2 = 0
  full : minExp f < u → (2 : ℚ) ^ fracBits f * 2 ^ u ≤ x
  lt : x < (2 : ℚ) ^ (fracBits f + 1) * 2 ^ u

/-- The bits below the sign that stand for `q` units `2^u`. -/
def packBits (f : NumFmt) (u : Int) (q : Nat) : Nat := (u - minExp f).toNat * 2 ^ fracBits f + q

theorem packBits_minExp_add (f : NumFmt) (k q : Nat) :
    packBits f (minExp f + k) q = 2 ^ fracBits f * k + q := by
  rw [packBits, add_sub_cancel_left, Int.toNat_natCast, mul_comm]

/-- The rounding of a positive exact value is the packing of such a choice, cut off at infinity. -/
theorem roundNum_isRounding (f : NumFmt) (neg : Bool) {n d : Nat} (e : Int) (hn : n ≠ 0) (hd : 0 < d) :
    ∃ u q, IsRounding f ((n : ℚ) / d * 2 ^ e) u q ∧
      roundNum f neg n d e = signed f neg (min (packBits f u q) (infBits f)) := by
  obtain ⟨lead_le, lt_lead⟩ := leadExp_spec hn hd
  refine ⟨_, _, ?_, by rw [roundNum, if_neg hn]; rfl⟩
  generalize hu : max (leadExp n d + e - fracBits f) (minExp f) = u
  have scaled : ((n * 2 ^ (e - u).toNat : Nat) : ℚ) / (d * 2 ^ (u - e).toNat : Nat) =
      (n : ℚ) / d * 2 ^ e / 2 ^ u := by
    rw [mul_div_assoc, ← zpow_sub₀ two_ne_zero, ← two_pow_toNat_div (e - u), neg_sub]
    push_cast; rw [mul_div_mul_comm]
  obtain ⟨near, tie⟩ := roundDiv_spec (n * 2 ^ (e - u).toNat) (b := d * 2 ^ (u - e).toNat) (by positivity)
  rw [scaled] at near tie
  generalize roundDiv _ _ = q at *
  have hU : (0 : ℚ) < 2 ^ u := by positivity
  have dist : 2 * |(q : ℚ) * 2 ^ u - (n : ℚ) / d * 2 ^ e| =
      2 * |(q : ℚ) - (n : ℚ) / d * 2 ^ e / 2 ^ u| * 2 ^ u := by
    rw [mul_assoc, ← abs_of_pos hU, ← abs_mul, abs_of_pos hU, sub_mul, div_mul_cancel₀ _ hU.ne']
  have pow_frac : ∀ k : Nat, (2 : ℚ) ^ k * 2 ^ u = 2 ^ (k + u : Int) := by
    intro k; rw [← zpow_natCast, ← zpow_add₀ two_ne_zero]
  constructor
  case minExp_le => omega
  case near => rw [dist]; exact mul_le_of_le_one_left hU.le near
  case even_of_tie =>
    intro h; rw [dist] at h; exact tie (mul_right_cancel₀ hU.ne' (by rw [h, one_mul]))
  case full =>
    intro h
    calc (2 : ℚ) ^ fracBits f * 2 ^ u = 2 ^ leadExp n d * 2 ^ e := by
          rw [pow_frac, ← zpow_add₀ two_ne_zero]; congr 1; omega
      _ ≤ (n : ℚ) / d * 2 ^ e := by gcongr
  case lt =>
    calc (n : ℚ) / d * 2 ^ e < 2 ^ (leadExp n d + 1) * 2 ^ e := by gcongr
      _ = 2 ^ (leadExp n d + 1 + e) := by rw [← zpow_add₀ two_ne_zero]
      _ ≤ 2 ^ ((fracBits f + 1 : Nat) + u : Int) := zpow_le_zpow_right₀ one_le_two (by push_cast; omega)
      _ = 2 ^ (fracBits f + 1) * 2 ^ u := (pow_frac _).symm

namespace IsRounding

variable {f : NumFmt} {x : ℚ} {u : Int} {q : Nat}

theorem exists_unit_eq (h : IsRounding f x u q) : ∃ k : Nat, u = minExp f + k :=
  Int.le.dest h.minExp_le |>.imp fun _ => Eq.symm

/-- A full significand stays full when rounded. -/
theorem two_pow_le (h : IsRounding f x u q) (hu : minExp f < u) : 2 ^ fracBits f ≤ q := by
  have hU : (0 : ℚ) < 2 ^ u := by positivity
  by_contra hq
  have hq' : (q : ℚ) + 1 ≤ 2 ^ fracBits f := by exact_mod_cast not_le.1 hq
  have := mul_le_mul_of_nonneg_right hq' hU.le
  linarith [h.full hu, h.near, neg_abs_le ((q : ℚ) * 2 ^ u - x)]

/-- Rounding can carry into the next power of two, but not beyond. -/
theorem le_two_pow (h : IsRounding f x u q) : q ≤ 2 ^ (fracBits f + 1) := by
  have hU : (0 : ℚ) < 2 ^ u := by positivity
  by_contra hq
  have hq' : (2 : ℚ) ^ (fracBits f + 1) + 1 ≤ q := by exact_mod_cast not_le.1 hq
  have := mul_le_mul_of_nonneg_right hq' hU.le
  linarith [h.lt, h.near, le_abs_self ((q : ℚ) * 2 ^ u - x)]

/-- Among the multiples of the unit the chosen one is nearest, and it is even where another one is as near. -/
theorem nearest_multiple (h : IsRounding f x u q) (j : Nat) :
    |(q : ℚ) * 2 ^ u - x| ≤ |(j : ℚ) * 2 ^ u - x| ∧
    (|(q : ℚ) * 2 ^ u - x| = |(j : ℚ) * 2 ^ u - x| → (q : ℚ) * 2 ^ u ≠ j * 2 ^ u → q % 2 = 0) := by
  have hU : (0 : ℚ) < 2 ^ u := by positivity
  by_cases hj : q = j
  · subst hj; exact ⟨le_rfl, fun _ hne => absurd rfl hne⟩
  have apart : (2 : ℚ) ^ u ≤ |(q : ℚ) * 2 ^ u - x| + |(j : ℚ) * 2 ^ u - x| := by
    have one_le : (1 : ℚ) ≤ |(q : ℚ) - j| := by
      exact_mod_cast Int.one_le_abs (sub_ne_zero.2 (Nat.cast_injective.ne hj : (q : Int) ≠ j))
    calc (2 : ℚ) ^ u ≤ |(q : ℚ) - j| * 2 ^ u := le_mul_of_one_le_left hU.le one_le
      _ = |((q : ℚ) * 2 ^ u - x) - (j * 2 ^ u - x)| := by
        rw [← abs_of_pos hU, ← abs_mul, abs_of_pos hU]; congr 1; ring
      _ ≤ _ := abs_sub _ _
  have near := h.near
  exact ⟨by linarith, fun heq _ => h.even_of_tie (by linarith)⟩

/-- The chosen multiple is nearest among all numbers `k·2^g` of the format: one of a finer unit lies below `2^fracBits`
units, which is itself a multiple of the unit and no greater than `x`. -/
theorem nearest (h : IsRounding f x u q) {k : Nat} {g : Int} (hk : k < 2 ^ (fracBits f + 1)) (hg : minExp f ≤ g) :
    |(q : ℚ) * 2 ^ u - x| ≤ |(k : ℚ) * 2 ^ g - x| ∧
    (|(q : ℚ) * 2 ^ u - x| = |(k : ℚ) * 2 ^ g - x| → (q : ℚ) * 2 ^ u ≠ k * 2 ^ g → q % 2 = 0) := by
  rcases le_or_gt u g with hug | hug
  · have multiple : (k : ℚ) * 2 ^ g = (k * 2 ^ (g - u).toNat : Nat) * 2 ^ u := by
      push_cast
      rw [two_pow_toNat_of_nonneg (by omega), mul_assoc, ← zpow_add₀ two_ne_zero, sub_add_cancel]
    rw [multiple]; exact h.nearest_multiple _
  · have below : (k : ℚ) * 2 ^ g < 2 ^ fracBits f * 2 ^ u := by
      calc (k : ℚ) * 2 ^ g < 2 ^ (fracBits f + 1) * 2 ^ g := by gcongr; exact_mod_cast hk
        _ = 2 ^ fracBits f * 2 ^ (g + 1) := by rw [zpow_add_one₀ two_ne_zero]; ring
        _ ≤ 2 ^ fracBits f * 2 ^ u := by
          gcongr ?_ * ?_; exact zpow_le_zpow_right₀ one_le_two (by omega)
    have le_x := h.full (by omega)
    have closest := (h.nearest_multiple (2 ^ fracBits f)).1
    push_cast at closest
    rw [abs_of_nonpos (sub_nonpos.2 le_x)] at closest
    rw [abs_of_nonpos (by linarith : (k : ℚ) * 2 ^ g - x ≤ 0)]
    exact ⟨by linarith, fun heq _ => by linarith⟩

/-- The number that the packed bits stand for. -/
theorem unpack_packBits (h : IsRounding f x u q) (neg : Bool) (hlt : packBits f u q < infBits f) :
    ∃ (m : Nat) (e : Int), unpack f (signed f neg (packBits f u q)) = .fin neg m e ∧
      (m : ℚ) * 2 ^ e = q * 2 ^ u ∧ m % 2 = q % 2 := by
  have even : 2 ^ fracBits f % 2 = 0 := by cases f <;> rfl
  have full := h.two_pow_le
  have carry := h.le_two_pow
  rw [unpack_signed f neg _ hlt.le, if_neg hlt.ne]
  obtain ⟨k, rfl⟩ := h.exists_unit_eq
  rw [packBits_minExp_add]
  have hP : 0 < 2 ^ fracBits f := Nat.two_pow_pos _
  rw [pow_succ] at carry
  generalize 2 ^ fracBits f = P at *
  rcases Nat.lt_or_ge q P with hq | hq
  · obtain rfl : k = 0 := by
      by_contra hk; exact absurd (full (by omega)) (by omega)
    rw [if_pos (by omega)]
    exact ⟨_, _, rfl, by simp, by simp⟩
  rw [if_neg (by have := Nat.zero_le (P * k); omega)]
  refine ⟨_, _, rfl, ?_⟩
  obtain ⟨r, rfl⟩ := Nat.exists_eq_add_of_le hq
  rw [← Nat.add_assoc, ← Nat.mul_succ]
  rcases Nat.lt_or_ge r P with hr | hr
  · rw [Nat.mul_add_mod, Nat.mod_eq_of_lt hr, Nat.mul_add_div hP, Nat.div_eq_of_lt hr]
    simp
  · obtain rfl : r = P := by omega
    rw [← Nat.mul_succ, Nat.mul_mod_right, Nat.mul_div_cancel_left _ hP]
    refine ⟨?_, by omega⟩
    rw [show minExp f + ((k.succ.succ - 1 : Nat) : Int) = (minExp f + k) + 1 by push_cast; omega,
      zpow_add_one₀ two_ne_zero]
    push_cast; ring

end IsRounding

/-- The unit of the format's greatest numbers. -/
def topExp (f : NumFmt) : Int := minExp f + (2 ^ expBits f - 3 : Nat)

/-- IEEE 754's overflow bound: the value midway between the greatest number and the next power of two. -/
def overflowBound (f : NumFmt) : ℚ := (2 ^ (fracBits f + 1) - 1 / 2) * 2 ^ topExp f

/-- With the greatest unit, the significand carries out of the format exactly from the overflow bound on: at the bound
itself the tie goes to the even side, which is the greater one. -/
theorem IsRounding.carries_iff {f : NumFmt} {x : ℚ} {q : Nat} (h : IsRounding f x (topExp f) q) :
    2 ^ fracBits f * 2 ≤ q ↔ overflowBound f ≤ x := by
  have hT : (0 : ℚ) < 2 ^ topExp f := by positivity
  have near := h.near
  rw [overflowBound, pow_succ]
  constructor
  · intro hq
    have hq' : (2 : ℚ) ^ fracBits f * 2 ≤ q := by exact_mod_cast hq
    have := mul_le_mul_of_nonneg_right hq' hT.le
    linarith [le_abs_self ((q : ℚ) * 2 ^ topExp f - x)]
  · intro hx
    by_contra hq
    have hq' : (q : ℚ) + 1 ≤ 2 ^ fracBits f * 2 := by exact_mod_cast not_le.1 hq
    have := mul_le_mul_of_nonneg_right hq' hT.le
    have dist := neg_abs_le ((q : ℚ) * 2 ^ topExp f - x)
    have q_even := h.even_of_tie (by linarith)
    have last : (q : ℚ) + 1 = 2 ^ fracBits f * 2 := mul_right_cancel₀ hT.ne' (by linarith)
    have : q + 1 = 2 ^ fracBits f * 2 := by exact_mod_cast last
    omega

/-- The packed bits reach infinity's exactly from the overflow bound on. -/
theorem IsRounding.infBits_le_iff {f : NumFmt} {x : ℚ} {u : Int} {q : Nat} (h : IsRounding f x u q) :
    infBits f ≤ packBits f u q ↔ overflowBound f ≤ x := by
  obtain ⟨k, rfl⟩ := h.exists_unit_eq
  obtain ⟨t, ht⟩ : ∃ t, 2 ^ expBits f = t + 3 := by cases f <;> exact ⟨_, rfl⟩
  have inf : infBits f = 2 ^ fracBits f * t + 2 ^ fracBits f * 2 := by
    rw [infBits, ht, show t + 3 - 1 = t + 2 from rfl]; ring
  have top : topExp f = minExp f + t := by rw [topExp, ht]; rfl
  have hT : (0 : ℚ) < 2 ^ topExp f := by positivity
  rw [packBits_minExp_add, inf]
  rcases lt_trichotomy k t with hk | rfl | hk
  · have small := Nat.mul_le_mul_left (2 ^ fracBits f) (Nat.succ_le_of_lt hk)
    have carry := h.le_two_pow
    have hP := Nat.two_pow_pos (fracBits f)
    have hP' : (1 : ℚ) ≤ 2 ^ fracBits f := one_le_pow₀ one_le_two
    rw [Nat.mul_succ] at small
    rw [pow_succ] at carry
    refine iff_of_false (by omega) (not_le.2 ?_)
    calc x < 2 ^ (fracBits f + 1) * 2 ^ (minExp f + k) := h.lt
      _ = 2 ^ fracBits f * 2 ^ (minExp f + k + 1) := by rw [zpow_add_one₀ two_ne_zero]; ring
      _ ≤ 2 ^ fracBits f * 2 ^ topExp f := by
        gcongr ?_ * ?_; exact zpow_le_zpow_right₀ one_le_two (by omega)
      _ ≤ overflowBound f := mul_le_mul_of_nonneg_right (by rw [pow_succ]; linarith) hT.le
  · rw [← top] at h
    rw [← h.carries_iff]; omega
  · have full : 2 ^ fracBits f ≤ q := h.two_pow_le (by omega)
    have large := Nat.mul_le_mul_left (2 ^ fracBits f) (Nat.succ_le_of_lt hk)
    rw [Nat.mul_succ] at large
    refine iff_of_true (by omega) ?_
    calc overflowBound f ≤ 2 ^ (fracBits f + 1) * 2 ^ topExp f :=
          mul_le_mul_of_nonneg_right (by linarith) hT.le
      _ = 2 ^ fracBits f * 2 ^ (topExp f + 1) := by rw [zpow_add_one₀ two_ne_zero]; ring
      _ ≤ 2 ^ fracBits f * 2 ^ (minExp f + k) := by
        gcongr ?_ * ?_; exact zpow_le_zpow_right₀ one_le_two (by omega)
      _ ≤ x := h.full (by omega)

/-! ### What `roundNum` answers -/

/-- From the overflow bound on, an infinity. -/
theorem roundNum_of_overflow {f : NumFmt} {n d : Nat} {e : Int} (neg : Bool) (hd : 0 < d)
    (h : overflowBound f ≤ (n : ℚ) / d * 2 ^ e) : roundNum f neg n d e = infNum f neg := by
  have pos : 0 < overflowBound f := by
    have : (1 : ℚ) ≤ 2 ^ (fracBits f + 1) := one_le_pow₀ one_le_two
    exact mul_pos (by linarith) (by positivity)
  have hn : n ≠ 0 := by rintro rfl; simp at h; linarith
  obtain ⟨u, q, rounding, eq⟩ := roundNum_isRounding f neg e hn hd
  rw [eq, Nat.min_eq_right (rounding.infBits_le_iff.2 h), infNum]

/-- Below the overflow bound, a finite number of the sign, to nearest among all numbers `k·2^g` of the
format, ties to even. -/
theorem unpack_roundNum {f : NumFmt} {n d : Nat} {e : Int} (neg : Bool) (hd : 0 < d)
    (h : (n : ℚ) / d * 2 ^ e < overflowBound f) :
    ∃ (m : Nat) (e' : Int), unpack f (roundNum f neg n d e) = .fin neg m e' ∧
      ∀ (k : Nat) (g : Int), k < 2 ^ (fracBits f + 1) → minExp f ≤ g →
        |(m : ℚ) * 2 ^ e' - (n : ℚ) / d * 2 ^ e| ≤ |(k : ℚ) * 2 ^ g - (n : ℚ) / d * 2 ^ e| ∧
        (|(m : ℚ) * 2 ^ e' - (n : ℚ) / d * 2 ^ e| = |(k : ℚ) * 2 ^ g - (n : ℚ) / d * 2 ^ e| →
          (m : ℚ) * 2 ^ e' ≠ k * 2 ^ g → m % 2 = 0) := by
  by_cases hn : n = 0
  · subst hn
    refine ⟨0, minExp f, by simp [roundNum], fun k g _ _ => ⟨?_, by simp⟩⟩
    have : (0 : ℚ) ≤ k * 2 ^ g := by positivity
    simpa
  · obtain ⟨u, q, rounding, eq⟩ := roundNum_isRounding f neg e hn hd
    have fits : packBits f u q < infBits f := not_le.1 (rounding.infBits_le_iff.not.2 (not_le.2 h))
    obtain ⟨m, e', unpacked, value, parity⟩ := rounding.unpack_packBits neg fits
    rw [eq, Nat.min_eq_left fits.le]
    refine ⟨m, e', unpacked, fun k g hk hg => ?_⟩
    rw [value, parity]
    exact rounding.nearest hk hg

/-- The significands and exponents of a format. -/
theorem unpack_fin_bounds {f : NumFmt} {w : Word} {neg : Bool} {m : Nat} {e : Int} (h : unpack f w = .fin neg m e) :
    m < 2 ^ (fracBits f + 1) ∧ minExp f ≤ e := by
  have frac_lt := Nat.mod_lt w.toNat (Nat.two_pow_pos (fracBits f))
  rw [pow_succ]
  unfold unpack at h
  dsimp only at h
  split at h
  · split at h <;> simp at h
  · split at h
    · obtain ⟨-, rfl, rfl⟩ := FVal.fin.inj h
      exact ⟨by omega, le_rfl⟩
    · obtain ⟨-, rfl, rfl⟩ := FVal.fin.inj h
      exact ⟨by omega, by omega⟩

theorem roundNum_eq_infNum_iff {f : NumFmt} {n d : Nat} {e : Int} (neg : Bool) (hd : 0 < d) :
    roundNum f neg n d e = infNum f neg ↔ overflowBound f ≤ (n : ℚ) / d * 2 ^ e := by
  refine ⟨fun h => ?_, roundNum_of_overflow neg hd⟩
  by_contra below
  obtain ⟨m, e', unpacked, -⟩ := unpack_roundNum neg hd (not_le.1 below)
  rw [h, unpack_infNum] at unpacked; cases unpacked

theorem overflowBound_binary32 : overflowBound .binary32 = ((2 : ℚ) ^ 25 - 1) * 2 ^ 103 := by
  rw [overflowBound, show topExp .binary32 = (104 : Nat) from rfl, zpow_natCast]; norm_num [fracBits]

theorem overflowBound_binary64 : overflowBound .binary64 = ((2 : ℚ) ^ 54 - 1) * 2 ^ 970 := by
  rw [overflowBound, show topExp .binary64 = (971 : Nat) from rfl, zpow_natCast, pow_succ 2 970, fracBits]
  generalize (2 : ℚ) ^ 970 = y; ring

end Sys2Proof.Machine
end

section
/-! PROOFS. The basic operations (00_scope.md R13, R19): the exact value each rounds on finite operands, what it
answers on special values, and that its NaNs are canonical. -/

namespace Sys2Proof.Machine

/-! ### The sign bit and the width of a word -/

/-- The number depends on the three fields of the word only. -/
theorem unpack_congr {f : NumFmt} {v w : Word} (frac : v.toNat % 2 ^ fracBits f = w.toNat % 2 ^ fracBits f)
    (ex : v.toNat / 2 ^ fracBits f % 2 ^ expBits f = w.toNat / 2 ^ fracBits f % 2 ^ expBits f)
    (sign : v.toNat / 2 ^ (expBits f + fracBits f) % 2 = w.toNat / 2 ^ (expBits f + fracBits f) % 2) :
    unpack f v = unpack f w := by
  unfold unpack; rw [frac, ex, sign]

/-- Nothing of a word above its format's width counts. -/
@[simp] theorem unpack_truncNum (f : NumFmt) (w : Word) : unpack f (truncNum f w) = unpack f w := by
  cases f
  case binary64 => rfl
  case binary32 =>
    have low : (truncNum .binary32 w).toNat = w.toNat % 2 ^ 32 := by
      rw [truncNum, BitVec.toNat_and, show (0x00000000FFFFFFFF#64).toNat = 2 ^ 32 - 1 from rfl,
        Nat.and_two_pow_sub_one_eq_mod]
    refine unpack_congr ?_ ?_ ?_ <;> rw [low] <;> simp only [fracBits, expBits] <;> omega

/-- The number of the other sign. -/
def FVal.neg : FVal → FVal
  | .nan => .nan
  | .inf s => .inf (!s)
  | .fin s m e => .fin (!s) m e

theorem unpack_xor_sign (f : NumFmt) (w : Word) : unpack f (w ^^^ signed f true 0) = (unpack f w).neg := by
  have sign : (signed f true 0).toNat = 2 ^ (expBits f + fracBits f) := by cases f <;> rfl
  have frac : (w ^^^ signed f true 0).toNat % 2 ^ fracBits f = w.toNat % 2 ^ fracBits f := by
    rw [BitVec.toNat_xor, sign, Nat.xor_mod_two_pow, Nat.mod_eq_zero_of_dvd (Nat.pow_dvd_pow 2 (by omega)),
      Nat.xor_zero]
  have ex : (w ^^^ signed f true 0).toNat / 2 ^ fracBits f % 2 ^ expBits f =
      w.toNat / 2 ^ fracBits f % 2 ^ expBits f := by
    rw [BitVec.toNat_xor, sign, Nat.xor_div_two_pow, Nat.xor_mod_two_pow, Nat.pow_add,
      Nat.mul_div_cancel _ (Nat.two_pow_pos _), Nat.mod_self, Nat.xor_zero]
  have neg : ((w ^^^ signed f true 0).toNat / 2 ^ (expBits f + fracBits f) % 2 == 1) =
      !(w.toNat / 2 ^ (expBits f + fracBits f) % 2 == 1) := by
    rw [BitVec.toNat_xor, sign, Nat.xor_div_two_pow, Nat.div_self (Nat.two_pow_pos _), Nat.xor_mod_two_eq]
    rcases Nat.mod_two_eq_zero_or_one (w.toNat / 2 ^ (expBits f + fracBits f)) with h | h <;> simp [Nat.add_mod, h]
  unfold unpack
  simp only [frac, ex, neg]
  split
  · split <;> rfl
  · split <;> rfl

theorem fneg_of_ne_nan {f : NumFmt} {a : Word} (h : unpack f a ≠ .nan) :
    fneg f a = truncNum f (a ^^^ signed f true 0) := by
  unfold fneg; split
  · contradiction
  · rfl

/-- `fneg` changes the sign of every number, and of nothing else. -/
@[simp] theorem unpack_fneg (f : NumFmt) (a : Word) : unpack f (fneg f a) = (unpack f a).neg := by
  by_cases h : unpack f a = .nan
  · simp [fneg, h, FVal.neg]
  · rw [fneg_of_ne_nan h, unpack_truncNum, unpack_xor_sign]

/-! ### The operations on finite operands -/

theorem fmul_of_fin {f : NumFmt} {a b : Word} {sa sb : Bool} {ma mb : Nat} {ea eb : Int}
    (ha : unpack f a = .fin sa ma ea) (hb : unpack f b = .fin sb mb eb) :
    fmul f a b = roundNum f (sa ^^ sb) (ma * mb) 1 (ea + eb) := by
  simp [fmul, ha, hb]

theorem fdiv_of_fin {f : NumFmt} {a b : Word} {sa sb : Bool} {ma mb : Nat} {ea eb : Int}
    (ha : unpack f a = .fin sa ma ea) (hb : unpack f b = .fin sb mb eb) (h : mb ≠ 0) :
    fdiv f a b = roundNum f (sa ^^ sb) ma mb (ea - eb) := by
  simp [fdiv, ha, hb, h]

theorem signedMant_cast (neg : Bool) (m : Nat) : (signedMant neg m : ℚ) = (if neg then -1 else 1) * m := by
  cases neg <;> simp [signedMant]

/-- The sum is that of the two significands brought to the lesser exponent, rounded once. -/
theorem fadd_of_fin {f : NumFmt} {a b : Word} {sa sb : Bool} {ma mb : Nat} {ea eb : Int}
    (ha : unpack f a = .fin sa ma ea) (hb : unpack f b = .fin sb mb eb) {v : Int}
    (hv : (v : ℚ) * 2 ^ (min ea eb) =
      (if sa then -1 else 1) * (ma : ℚ) * 2 ^ ea + (if sb then -1 else 1) * (mb : ℚ) * 2 ^ eb) :
    fadd f a b = if v = 0 then zeroNum f (sa && sb) else roundNum f (decide (v < 0)) v.natAbs 1 (min ea eb) := by
  have aligned : ∀ e, min ea eb ≤ e → (2 : ℚ) ^ (e - min ea eb).toNat * 2 ^ min ea eb = 2 ^ e := by
    intro e h
    rw [two_pow_toNat_of_nonneg (by omega), ← zpow_add₀ two_ne_zero, sub_add_cancel]
  have sum : v = signedMant sa ma * 2 ^ (ea - min ea eb).toNat + signedMant sb mb * 2 ^ (eb - min ea eb).toNat := by
    have pos : (2 : ℚ) ^ min ea eb ≠ 0 := by positivity
    suffices h : (v : ℚ) * 2 ^ min ea eb = (signedMant sa ma * 2 ^ (ea - min ea eb).toNat +
        signedMant sb mb * 2 ^ (eb - min ea eb).toNat) * 2 ^ min ea eb by
      exact_mod_cast mul_right_cancel₀ pos h
    rw [hv, add_mul, mul_assoc (signedMant sa ma : ℚ), mul_assoc (signedMant sb mb : ℚ),
      aligned _ (min_le_left _ _), aligned _ (min_le_right _ _), signedMant_cast, signedMant_cast]
  simp [fadd, ha, hb, ← sum, roundInt]

theorem le_isqrt {n r : Nat} (h : r * r ≤ n) : r ≤ isqrt n :=
  Nat.lt_succ_iff.1 (Nat.mul_self_lt_mul_self_iff.1 (h.trans_lt (isqrt_spec n).2))

/-- Twice the integer root of `n`, plus one where the root was cut off. -/
def stickyRoot (n : Nat) : Nat := 2 * isqrt n + (if isqrt n * isqrt n = n then 0 else 1)

/-- An even sticky root is the exact root (of `4n`), an odd one lies strictly between two neighbours with it; in any
unit. -/
theorem stickyRoot_spec (n : Nat) {g : ℚ} (hg : 0 < g) :
    (stickyRoot n % 2 = 0 ∧ ((stickyRoot n : ℚ) * g) ^ 2 = 4 * n * g ^ 2) ∨
    (stickyRoot n % 2 = 1 ∧ (((stickyRoot n - 1 : Nat) : ℚ) * g) ^ 2 < 4 * n * g ^ 2 ∧
      4 * n * g ^ 2 < (((stickyRoot n + 1 : Nat) : ℚ) * g) ^ 2) := by
  obtain ⟨sq_le, lt_sq⟩ := isqrt_spec n
  unfold stickyRoot
  generalize isqrt n = r at *
  by_cases square : r * r = n
  · refine .inl ⟨by simp [square], ?_⟩
    rw [if_pos square, ← square]; push_cast; ring
  · have sq_lt : (r : ℚ) * r < n := by exact_mod_cast lt_of_le_of_ne sq_le square
    have lt_sq' : (n : ℚ) < (r + 1) * (r + 1) := by exact_mod_cast lt_sq
    refine .inr ⟨by simp [square], ?_, ?_⟩
    · rw [if_neg square, Nat.add_sub_cancel]
      calc ((2 * r : Nat) * g : ℚ) ^ 2 = 4 * (r * r) * g ^ 2 := by push_cast; ring
        _ < 4 * n * g ^ 2 := by gcongr
    · rw [if_neg square]
      calc (4 * n * g ^ 2 : ℚ) < 4 * ((r + 1) * (r + 1)) * g ^ 2 := by gcongr
        _ = ((2 * r + 1 + 1 : Nat) * g : ℚ) ^ 2 := by push_cast; ring

/-- The root is rounded from its sticky root, which has at least four bits more than a significand. -/
theorem fsqrt_of_pos {f : NumFmt} {a : Word} {m : Nat} {e : Int} (ha : unpack f a = .fin false m e) (hm : m ≠ 0) :
    ∃ (r : Nat) (g : Int), fsqrt f a = roundNum f false r 1 g ∧
      ((r % 2 = 0 ∧ ((r : ℚ) * 2 ^ g) ^ 2 = m * 2 ^ e) ∨
       (r % 2 = 1 ∧ (((r - 1 : Nat) : ℚ) * 2 ^ g) ^ 2 < m * 2 ^ e ∧
        (m : ℚ) * 2 ^ e < (((r + 1 : Nat) : ℚ) * 2 ^ g) ^ 2)) ∧
      2 ^ (fracBits f + 4) ≤ r := by
  obtain ⟨odd, h, odd_eq, half_eq, rfl⟩ : ∃ (odd : Nat) (h : Int),
      (e % 2).toNat = odd ∧ (e - odd) / 2 = h ∧ e = 2 * h + odd := ⟨_, _, rfl, rfl, by omega⟩
  generalize ht : fracBits f + 3 = t
  have root : fsqrt f a = roundNum f false (stickyRoot (m * 2 ^ odd * 4 ^ t)) 1 (h - t - 1) := by
    simp only [fsqrt, ha, hm, odd_eq, half_eq, ht, stickyRoot, if_false, Bool.false_eq_true]
  have scale : (m : ℚ) * 2 ^ (2 * h + odd) = 4 * (m * 2 ^ odd * 4 ^ t : Nat) * (2 ^ (h - t - 1)) ^ 2 := by
    rw [zpow_add₀ two_ne_zero, mul_comm 2 h, zpow_mul, zpow_sub_one₀ two_ne_zero, zpow_sub₀ two_ne_zero,
      show (4 : Nat) = 2 ^ 2 from rfl, ← pow_mul, mul_comm 2 t, pow_mul]
    push_cast; simp only [zpow_natCast]; field_simp; ring
  have bits : 2 ^ t ≤ isqrt (m * 2 ^ odd * 4 ^ t) := by
    refine le_isqrt ?_
    rw [← mul_pow]
    exact Nat.le_mul_of_pos_left _ (by positivity)
  refine ⟨_, _, root, scale ▸ stickyRoot_spec _ (by positivity), ?_⟩
  rw [show fracBits f + 4 = t + 1 by omega, pow_succ, stickyRoot]
  omega

/-- A number of the format rounds to itself. -/
theorem unpack_roundNum_exact {f : NumFmt} {n d k : Nat} {e g : Int} (neg : Bool) (hd : 0 < d)
    (hx : (n : ℚ) / d * 2 ^ e = k * 2 ^ g) (hk : k < 2 ^ (fracBits f + 1)) (hg : minExp f ≤ g)
    (h : (n : ℚ) / d * 2 ^ e < overflowBound f) :
    ∃ (m : Nat) (e' : Int), unpack f (roundNum f neg n d e) = .fin neg m e' ∧ (m : ℚ) * 2 ^ e' = k * 2 ^ g := by
  obtain ⟨m, e', unpacked, nearest⟩ := unpack_roundNum neg hd h
  have dist := (nearest k g hk hg).1
  rw [hx, sub_self, abs_zero, abs_nonpos_iff, sub_eq_zero] at dist
  exact ⟨m, e', unpacked, dist⟩

/-- Every integer below `2^24` has a significand in both formats. -/
theorem unpack_num (f : NumFmt) {n : Nat} (hn : n < 2 ^ 24) :
    ∃ (m : Nat) (e : Int), unpack f (num f n) = .fin false m e ∧ (m : ℚ) * 2 ^ e = n := by
  have fits : n < 2 ^ (fracBits f + 1) := hn.trans_le (by cases f <;> decide)
  have below : (n : ℚ) < overflowBound f := by
    have top : (1 : ℚ) ≤ 2 ^ topExp f := one_le_zpow₀ one_le_two (by cases f <;> decide)
    have fits' : (n : ℚ) + 1 ≤ 2 ^ (fracBits f + 1) := by exact_mod_cast fits
    calc (n : ℚ) < 2 ^ (fracBits f + 1) - 1 / 2 := by linarith
      _ ≤ overflowBound f := le_mul_of_one_le_right (by linarith [n.cast_nonneg (α := ℚ)]) top
  simpa [num] using unpack_roundNum_exact (f := f) (n := n) (d := 1) (k := n) (e := 0) (g := 0) false
    Nat.one_pos (by simp) fits (by cases f <;> decide) (by simpa using below)

theorem isFinite_iff (f : NumFmt) (a : Word) :
    isFinite f a = true ↔ unpack f a ≠ .nan ∧ unpack f a ≠ .inf false ∧ unpack f a ≠ .inf true := by
  unfold isFinite
  split
  next h => simp [h]
  next neg h => cases neg <;> simp [h]
  next h => simp [h]

/-! ### Canonical NaNs -/

/-- If the word is a NaN, it is QNAN (00_scope.md R13). -/
def IsCanonical (f : NumFmt) (r : Word) : Prop := unpack f r = .nan → r = qnan f

theorem isCanonical_of_ne_nan {f : NumFmt} {r : Word} (h : unpack f r ≠ .nan) : IsCanonical f r :=
  fun hn => absurd hn h

@[simp] theorem isCanonical_qnan (f : NumFmt) : IsCanonical f (qnan f) := fun _ => rfl

@[simp] theorem isCanonical_zeroNum (f : NumFmt) (neg : Bool) : IsCanonical f (zeroNum f neg) :=
  isCanonical_of_ne_nan (by simp)

@[simp] theorem isCanonical_infNum (f : NumFmt) (neg : Bool) : IsCanonical f (infNum f neg) :=
  isCanonical_of_ne_nan (by simp)

@[simp] theorem isCanonical_numOne (f : NumFmt) : IsCanonical f (numOne f) :=
  isCanonical_of_ne_nan (by cases f <;> decide)

@[simp] theorem isCanonical_roundNum (f : NumFmt) (neg : Bool) (n d : Nat) (e : Int) :
    IsCanonical f (roundNum f neg n d e) :=
  isCanonical_of_ne_nan (unpack_roundNum_ne_nan f neg n d e)

@[simp] theorem isCanonical_canonNum (f : NumFmt) (w : Word) : IsCanonical f (canonNum f w) := by
  unfold canonNum
  split
  next => simp
  next h => exact isCanonical_of_ne_nan (by simpa using h)

theorem fneg_of_nan {f : NumFmt} {a : Word} (h : unpack f a = .nan) : fneg f a = qnan f := by
  simp [fneg, h]

theorem isCanonical_fneg (f : NumFmt) (a : Word) : IsCanonical f (fneg f a) := by
  intro h
  rw [unpack_fneg] at h
  cases ha : unpack f a with
  | nan => exact fneg_of_nan ha
  | inf s => rw [ha] at h; cases h
  | fin s m e => rw [ha] at h; cases h

theorem isCanonical_fadd (f : NumFmt) (a b : Word) : IsCanonical f (fadd f a b) := by
  unfold fadd
  split
  case h_6 => dsimp only; split <;> simp [roundInt]
  case h_3 => split <;> simp
  all_goals simp

theorem isCanonical_fmul (f : NumFmt) (a b : Word) : IsCanonical f (fmul f a b) := by
  unfold fmul
  split
  case h_4 => split <;> simp
  case h_5 => split <;> simp
  all_goals simp

theorem isCanonical_fdiv (f : NumFmt) (a b : Word) : IsCanonical f (fdiv f a b) := by
  unfold fdiv
  split
  case h_6 =>
    split
    · split <;> simp
    · simp
  all_goals simp

theorem isCanonical_fsqrt (f : NumFmt) (a : Word) : IsCanonical f (fsqrt f a) := by
  unfold fsqrt
  split
  case h_1 => simp
  case h_2 => split <;> simp
  case h_3 =>
    split
    · simp
    · split <;> simp

/-! ### Special values (00_scope.md R13) -/

section
variable {f : NumFmt} {a b : Word} {sa sb : Bool} {ma mb : Nat} {ea eb : Int}

theorem fadd_of_nan (h : unpack f a = .nan ∨ unpack f b = .nan) : fadd f a b = qnan f := by
  rcases h with h | h
  · simp [fadd, h]
  · cases ha : unpack f a <;> simp [fadd, ha, h]

theorem fmul_of_nan (h : unpack f a = .nan ∨ unpack f b = .nan) : fmul f a b = qnan f := by
  rcases h with h | h
  · simp [fmul, h]
  · cases ha : unpack f a <;> simp [fmul, ha, h]

theorem fdiv_of_nan (h : unpack f a = .nan ∨ unpack f b = .nan) : fdiv f a b = qnan f := by
  rcases h with h | h
  · simp [fdiv, h]
  · cases ha : unpack f a <;> simp [fdiv, ha, h]

theorem fsub_of_nan (h : unpack f a = .nan ∨ unpack f b = .nan) : fsub f a b = qnan f :=
  fadd_of_nan (h.imp_right fun hb => by rw [unpack_fneg, hb]; rfl)

theorem fadd_inf_inf (ha : unpack f a = .inf sa) (hb : unpack f b = .inf sb) :
    fadd f a b = if sa = sb then infNum f sa else qnan f := by simp [fadd, ha, hb]

theorem fadd_inf_fin (ha : unpack f a = .inf sa) (hb : unpack f b = .fin sb mb eb) :
    fadd f a b = infNum f sa := by simp [fadd, ha, hb]

theorem fadd_fin_inf (ha : unpack f a = .fin sa ma ea) (hb : unpack f b = .inf sb) :
    fadd f a b = infNum f sb := by simp [fadd, ha, hb]

theorem fsub_inf_inf (ha : unpack f a = .inf sa) (hb : unpack f b = .inf sb) :
    fsub f a b = if sa = !sb then infNum f sa else qnan f :=
  fadd_inf_inf ha (by rw [unpack_fneg, hb]; rfl)

theorem fsub_inf_fin (ha : unpack f a = .inf sa) (hb : unpack f b = .fin sb mb eb) :
    fsub f a b = infNum f sa :=
  fadd_inf_fin ha (by rw [unpack_fneg, hb]; rfl)

theorem fsub_fin_inf (ha : unpack f a = .fin sa ma ea) (hb : unpack f b = .inf sb) :
    fsub f a b = infNum f (!sb) :=
  fadd_fin_inf ha (by rw [unpack_fneg, hb]; rfl)

/-- `x + (-x) = +0`. -/
theorem fadd_fneg_self (ha : unpack f a = .fin sa ma ea) : fadd f a (fneg f a) = zeroNum f false := by
  have hb : unpack f (fneg f a) = .fin (!sa) ma ea := by rw [unpack_fneg, ha]; rfl
  rw [fadd_of_fin ha hb (v := 0) (by cases sa <;> simp), if_pos rfl]
  cases sa <;> rfl

theorem fadd_zeroNum_zeroNum : fadd f (zeroNum f sa) (zeroNum f sb) = zeroNum f (sa && sb) := by
  rw [fadd_of_fin (unpack_zeroNum f sa) (unpack_zeroNum f sb) (v := 0) (by simp), if_pos rfl]

theorem fmul_inf_inf (ha : unpack f a = .inf sa) (hb : unpack f b = .inf sb) :
    fmul f a b = infNum f (sa ^^ sb) := by simp [fmul, ha, hb]

theorem fmul_inf_fin (ha : unpack f a = .inf sa) (hb : unpack f b = .fin sb mb eb) :
    fmul f a b = if mb = 0 then qnan f else infNum f (sa ^^ sb) := by simp [fmul, ha, hb]

theorem fmul_fin_inf (ha : unpack f a = .fin sa ma ea) (hb : unpack f b = .inf sb) :
    fmul f a b = if ma = 0 then qnan f else infNum f (sa ^^ sb) := by simp [fmul, ha, hb]

theorem fdiv_inf_inf (ha : unpack f a = .inf sa) (hb : unpack f b = .inf sb) : fdiv f a b = qnan f := by
  simp [fdiv, ha, hb]

theorem fdiv_inf_fin (ha : unpack f a = .inf sa) (hb : unpack f b = .fin sb mb eb) :
    fdiv f a b = infNum f (sa ^^ sb) := by simp [fdiv, ha, hb]

theorem fdiv_fin_inf (ha : unpack f a = .fin sa ma ea) (hb : unpack f b = .inf sb) :
    fdiv f a b = zeroNum f (sa ^^ sb) := by simp [fdiv, ha, hb]

theorem fdiv_by_zero (ha : unpack f a = .fin sa ma ea) (hb : unpack f b = .fin sb 0 eb) :
    fdiv f a b = if ma = 0 then qnan f else infNum f (sa ^^ sb) := by simp [fdiv, ha, hb]

theorem fsqrt_of_nan (ha : unpack f a = .nan) : fsqrt f a = qnan f := by simp [fsqrt, ha]

theorem fsqrt_of_inf (ha : unpack f a = .inf sa) : fsqrt f a = if sa then qnan f else infNum f false := by
  simp [fsqrt, ha]

theorem fsqrt_of_zero (ha : unpack f a = .fin sa 0 ea) : fsqrt f a = zeroNum f sa := by simp [fsqrt, ha]

theorem fsqrt_of_neg (ha : unpack f a = .fin true ma ea) (hm : ma ≠ 0) : fsqrt f a = qnan f := by
  simp [fsqrt, ha, hm]

end

end Sys2Proof.Machine
end

section
/-! PROOFS. The transcendental primitives (00_scope.md R15, R16): exact cases, canonical NaNs, and the reference at
fractions of a turn. -/

namespace Sys2Proof.Machine

section
variable {p : Params} {x : Word}

theorem isCanonical_cosT (p : Params) (j d : Nat) : IsCanonical p.numFmt (cosT p j d) := by
  unfold cosT; split <;> simp

theorem isCanonical_sinT (p : Params) (j d : Nat) : IsCanonical p.numFmt (sinT p j d) := by
  unfold sinT; split <;> simp

theorem isCanonical_lnF (p : Params) (x : Word) : IsCanonical p.numFmt (lnF p x) := by
  unfold lnF; split <;> simp

theorem isCanonical_expF (p : Params) (x : Word) : IsCanonical p.numFmt (expF p x) := by
  unfold expF; split <;> simp

theorem isCanonical_log10Pos (p : Params) (x : Word) : IsCanonical p.numFmt (log10Pos p x) := by
  unfold log10Pos; split <;> simp

theorem isCanonical_log10F (p : Params) (x : Word) : IsCanonical p.numFmt (log10F p x) := by
  unfold log10F
  split
  case h_1 => simp
  case h_2 => split <;> simp
  case h_3 =>
    split
    · simp
    · split
      · simp
      · exact isCanonical_log10Pos p x

theorem log10F_of_nan (h : unpack p.numFmt x = .nan) : log10F p x = qnan p.numFmt := by simp [log10F, h]

theorem log10F_of_zero {neg : Bool} {e : Int} (h : unpack p.numFmt x = .fin neg 0 e) :
    log10F p x = infNum p.numFmt true := by simp [log10F, h]

theorem log10F_of_neg {m : Nat} {e : Int} (h : unpack p.numFmt x = .fin true m e) (hm : m ≠ 0) :
    log10F p x = qnan p.numFmt := by simp [log10F, h, hm]

theorem log10F_of_inf {neg : Bool} (h : unpack p.numFmt x = .inf neg) :
    log10F p x = if neg then qnan p.numFmt else infNum p.numFmt false := by simp [log10F, h]

theorem unpack_numOne (f : NumFmt) : unpack f (numOne f) = .fin false (2 ^ fracBits f) (-(fracBits f : Int)) := by
  cases f <;> decide

theorem log10F_one (p : Params) : log10F p (numOne p.numFmt) = zeroNum p.numFmt false := by
  simp [log10F, unpack_numOne, log10Pos]

end

/-! ### Cosines and sines of the reference at fractions of a turn (00_scope.md R16) -/

theorem quadrantAngle_mul {c : Nat} (hc : 0 < c) (j d : Nat) : quadrantAngle (c * j) (c * d) = quadrantAngle j d := by
  unfold quadrantAngle
  rw [Nat.mul_left_comm 4, Nat.mul_mod_mul_left, Nat.mul_left_comm 2, Nat.mul_left_comm fixPi,
    Nat.mul_div_mul_left _ _ hc]

theorem quadrant_mul {c : Nat} (hc : 0 < c) (j d : Nat) : 4 * (c * j) / (c * d) = 4 * j / d := by
  rw [Nat.mul_left_comm, Nat.mul_div_mul_left _ _ hc]

/-- The reference depends on the fraction of a turn only. -/
theorem refCos_mul (f : NumFmt) {c : Nat} (hc : 0 < c) (j d : Nat) : refCos f (c * j) (c * d) = refCos f j d := by
  unfold refCos; rw [quadrantAngle_mul hc, quadrant_mul hc]

theorem refSin_mul (f : NumFmt) {c : Nat} (hc : 0 < c) (j d : Nat) : refSin f (c * j) (c * d) = refSin f j d := by
  unfold refSin; rw [quadrantAngle_mul hc, quadrant_mul hc]

section
variable {p : Params} {c j d j' d' : Nat} {w : Word}

theorem cosT_of_refCos (href : p.numf = .reference) (hlt : j' < d') (hj' : j' = c * j) (hd' : d' = c * d) (hj : j ≠ 0)
    (h : (refCos p.numFmt j d).map (canonNum p.numFmt) = some w) : cosT p j' d' = w := by
  obtain ⟨v, ref, canon⟩ := Option.map_eq_some_iff.1 h
  have hc : 0 < c := by rcases Nat.eq_zero_or_pos c with rfl | hc <;> omega
  subst hj' hd'
  rw [cosT, if_neg (Nat.mul_ne_zero hc.ne' hj), href]
  simp only [refCos_mul p.numFmt hc, ref, Option.getD_some, canon]

theorem sinT_of_refSin (href : p.numf = .reference) (hlt : j' < d') (hj' : j' = c * j) (hd' : d' = c * d) (hj : j ≠ 0)
    (h : (refSin p.numFmt j d).map (canonNum p.numFmt) = some w) : sinT p j' d' = w := by
  obtain ⟨v, ref, canon⟩ := Option.map_eq_some_iff.1 h
  have hc : 0 < c := by rcases Nat.eq_zero_or_pos c with rfl | hc <;> omega
  subst hj' hd'
  rw [sinT, if_neg (Nat.mul_ne_zero hc.ne' hj), href]
  simp only [refSin_mul p.numFmt hc, ref, Option.getD_some, canon]

end

/-- The reference's cosines at the quarters of a turn. -/
theorem refCos_quarters (f : NumFmt) :
    (refCos f 1 4).map (canonNum f) = some (zeroNum f false) ∧
    (refCos f 1 2).map (canonNum f) = some (fneg f (numOne f)) ∧
    (refCos f 3 4).map (canonNum f) = some (zeroNum f false) := by
  cases f <;> decide +kernel

/-- The reference's sines at the quarters of a turn. -/
theorem refSin_quarters (f : NumFmt) :
    (refSin f 1 4).map (canonNum f) = some (numOne f) ∧
    (refSin f 1 2).map (canonNum f) = some (zeroNum f false) ∧
    (refSin f 3 4).map (canonNum f) = some (fneg f (numOne f)) := by
  cases f <;> decide +kernel

/-- The reference's cosines at 1/6, 5/6, 1/3 and 2/3 of a turn. -/
theorem refCos_sixths (f : NumFmt) :
    (refCos f 1 6).map (canonNum f) = some (numHalf f) ∧ (refCos f 5 6).map (canonNum f) = some (numHalf f) ∧
    (refCos f 1 3).map (canonNum f) = some (fneg f (numHalf f)) ∧
    (refCos f 2 3).map (canonNum f) = some (fneg f (numHalf f)) := by
  cases f <;> decide +kernel

end Sys2Proof.Machine
end

section
/-! PROOFS. The statements about numbers (family 00_scope.md), settled. -/

namespace Sys2Proof.Machine

/-- Settles O48: of the kinds of value only a finite one is computed, by `floorIdx_of_fin`. -/
theorem floorIndexIsTheClampedFloor : Obligations.FloorIndexIsTheClampedFloor := by
  intro f w l
  refine ⟨fun h => ?nan, fun h => ?negInf, fun h => ?inf, fun m e h => floorIdx_of_fin h l,
    fun m e h => floorIdx_of_fin h l⟩
  case nan => simp [floorIdx, h]
  case negInf => simp [floorIdx, h]
  case inf => simp [floorIdx, h]

/-- Settles O49: `roundNum_eq_infNum_iff` gives the overflow bound, `unpack_roundNum` the nearest number below it. -/
theorem roundingIsToNearestTiesToEven : Obligations.RoundingIsToNearestTiesToEven := by
  intro f neg n d e hd
  have inf_iff := roundNum_eq_infNum_iff (f := f) (n := n) (e := e) neg hd
  refine ⟨?_, fun ne_inf => ?_, fun neg' m e' unpacked => ?_⟩
  · cases f
    · rwa [overflowBound_binary32] at inf_iff
    · rwa [overflowBound_binary64] at inf_iff
  · obtain ⟨m, e', unpacked, -⟩ := unpack_roundNum neg hd (not_le.1 (inf_iff.not.1 ne_inf))
    exact ⟨m, e', unpacked⟩
  · have below : (n : ℚ) / d * 2 ^ e < overflowBound f := by
      refine not_le.1 fun h => ?_
      rw [roundNum_of_overflow neg hd h, unpack_infNum] at unpacked; cases unpacked
    obtain ⟨m', g, unpacked', nearest⟩ := unpack_roundNum neg hd below
    obtain ⟨rfl, rfl, rfl⟩ := FVal.fin.inj (unpacked'.symm.trans unpacked)
    refine ⟨rfl, fun w k g hw => ?_⟩
    obtain ⟨hk, hg⟩ := unpack_fin_bounds hw
    exact nearest k g hk hg

/-- Settles O50: one lemma for each operation; a difference is the sum with the other sign. -/
theorem basicOperationsRoundTheExactResult : Obligations.BasicOperationsRoundTheExactResult := by
  intro f
  refine ⟨fun a b sa sb ma mb ea eb ha hb => ?_, fun a ha => ?_, fun a sgn m e ha => ?_, fun a sgn ha => ?_,
    fun n hn => unpack_num f hn, isFinite_iff f⟩
  · refine ⟨fmul_of_fin ha hb, fdiv_of_fin ha hb, fun v hv => fadd_of_fin ha hb hv, fun v hv => ?_, fun hs hm => ?_⟩
    · have hb' : unpack f (fneg f b) = .fin (!sb) mb eb := by rw [unpack_fneg, hb]; rfl
      refine fadd_of_fin ha hb' (hv.trans ?_)
      cases sb <;> simp [sub_eq_add_neg]
    · subst hs; exact fsqrt_of_pos ha hm
  · rw [fneg_of_ne_nan ha]; cases f <;> rfl
  · rw [unpack_fneg, ha]; rfl
  · rw [unpack_fneg, ha]; rfl

/-- Settles O51: a clause is the operation's lemma for that kind of operands. -/
theorem specialValuesAndCanonicalNaN : Obligations.SpecialValuesAndCanonicalNaN := by
  intro f a b
  refine ⟨?canonical, fun h => ⟨fadd_of_nan h, fsub_of_nan h, fmul_of_nan h, fdiv_of_nan h⟩,
    fun h => ⟨fsqrt_of_nan h, fneg_of_nan h⟩, fun sgn ha hb => ?infSum, fun sgn ha hb => ?infDiff,
    fun sa sb e ha hb => ⟨?zeroTimesInf, ?infTimesZero⟩, fun ha => fsqrt_of_inf ha, fun m e ha hm => fsqrt_of_neg ha hm,
    fun sgn m e ha => fadd_fneg_self ha, fadd_zeroNum_zeroNum, fadd_zeroNum_zeroNum,
    fun sa sb m e ha hb => ⟨fadd_inf_fin ha hb, fadd_fin_inf hb ha, fsub_inf_fin ha hb, fsub_fin_inf hb ha,
      fun hm => ⟨?infTimesFin, ?finTimesInf⟩, fdiv_inf_fin ha hb, ?finByInf⟩,
    fun sa sb ha hb => ⟨fun hs => ?sameInf, fun hs => ?otherInf, fmul_inf_inf ha hb, fdiv_inf_inf ha hb⟩,
    fun sa sb m ea eb ha hb => fdiv_by_zero ha hb, fun ha => fsqrt_of_inf ha, fun sgn e ha => fsqrt_of_zero ha,
    fadd_zeroNum_zeroNum⟩
  case canonical =>
    intro r hr
    simp only [List.mem_cons, List.not_mem_nil, or_false] at hr
    rcases hr with rfl | rfl | rfl | rfl | rfl | rfl
    · exact isCanonical_fadd f a b
    · exact isCanonical_fadd f a (fneg f b)
    · exact isCanonical_fmul f a b
    · exact isCanonical_fdiv f a b
    · exact isCanonical_fsqrt f a
    · exact isCanonical_fneg f a
  case infSum => rw [fadd_inf_inf ha hb, if_neg (by simp)]
  case infDiff => rw [fsub_inf_inf ha hb, if_neg (by simp)]
  case zeroTimesInf => rw [fmul_fin_inf ha hb, if_pos rfl]
  case infTimesZero => rw [fmul_inf_fin hb ha, if_pos rfl]
  case infTimesFin => rw [fmul_inf_fin ha hb, if_neg hm]
  case finTimesInf => rw [fmul_fin_inf hb ha, if_neg hm, Bool.xor_comm]
  case finByInf => rw [fdiv_fin_inf hb ha, Bool.xor_comm]
  case sameInf => rw [fadd_inf_inf ha hb, if_pos hs]
  case otherInf => rw [fsub_inf_inf ha hb, if_pos (Bool.eq_not_of_ne hs)]

/-- Settles O52: by the definitions' own exact cases, canonical NaNs, and the reference evaluated at the reduced
fractions of a turn. -/
theorem transcendentalExactCases : Obligations.TranscendentalExactCases := by
  intro p d x
  refine ⟨if_pos rfl, if_pos rfl, if_pos (truncNum_numOne _), if_pos (truncNum_zeroNum _ _),
    log10F_of_zero (unpack_zeroNum _ _), log10F_of_zero (unpack_zeroNum _ _), fun m e h hm => log10F_of_neg h hm,
    log10F_of_inf (unpack_infNum _ _), log10F_of_inf (unpack_infNum _ _), log10F_of_nan, log10F_one p, ?canonical,
    ?fractions⟩
  case canonical =>
    intro j r hr
    simp only [List.mem_cons, List.not_mem_nil, or_false] at hr
    rcases hr with rfl | rfl | rfl | rfl | rfl
    · exact isCanonical_cosT p j d
    · exact isCanonical_sinT p j d
    · exact isCanonical_lnF p x
    · exact isCanonical_expF p x
    · exact isCanonical_log10F p x
  case fractions =>
    intro href j hlt
    obtain ⟨cos14, cos12, cos34⟩ := refCos_quarters p.numFmt
    obtain ⟨sin14, sin12, sin34⟩ := refSin_quarters p.numFmt
    obtain ⟨cos16, cos56, cos13, cos23⟩ := refCos_sixths p.numFmt
    refine ⟨fun h => ⟨?_, ?_⟩, fun h => ⟨?_, ?_⟩, fun h => ⟨?_, ?_⟩, fun h => ?_, fun h => ?_⟩
    · exact cosT_of_refCos href hlt (c := j) (by omega) (by omega) (by decide) cos14
    · exact sinT_of_refSin href hlt (c := j) (by omega) (by omega) (by decide) sin14
    · exact cosT_of_refCos href hlt (c := j) (by omega) (by omega) (by decide) cos12
    · exact sinT_of_refSin href hlt (c := j) (by omega) (by omega) (by decide) sin12
    · exact cosT_of_refCos href hlt (c := d / 4) (by omega) (by omega) (by decide) cos34
    · exact sinT_of_refSin href hlt (c := d / 4) (by omega) (by omega) (by decide) sin34
    · rcases h with h | h
      · exact cosT_of_refCos href hlt (c := j) (by omega) (by omega) (by decide) cos16
      · exact cosT_of_refCos href hlt (c := d / 6) (by omega) (by omega) (by decide) cos56
    · rcases h with h | h
      · exact cosT_of_refCos href hlt (c := j) (by omega) (by omega) (by decide) cos13
      · exact cosT_of_refCos href hlt (c := d / 3) (by omega) (by omega) (by decide) cos23

/-- Settles O53: twelve encodings written out, each the rounding of its decimal evaluated once. -/
theorem constantsAreNearestToTheirDecimals : Obligations.ConstantsAreNearestToTheirDecimals := by
  refine ⟨rfl, rfl, rfl, rfl, rfl, rfl, rfl, rfl, rfl, rfl, rfl, rfl, ?_⟩
  decide +kernel

end Sys2Proof.Machine
end

section
/-! PROOFS. What one step can change, as one case split for every statement about steps: the completion of the pending
command, a reset, a performed or discarded write, or nothing but the model's record of the host. -/

namespace Sys2Proof.Machine

/-! ### The words of commands -/

theorem op_of_mem_opcodeMap : ∀ x ∈ opcodeMap, x.1 = x.2.op := by decide

/-- A word whose reserved bits are 0 is its OP. -/
theorem word_eq_setWidth_op {w : Word} (h : Word.rsv w = 0) : w = (Word.op w).setWidth 64 := by
  have hr : w.toNat / 2 ^ 8 % 2 ^ 56 = 0 := by
    simpa [Word.rsv, Nat.shiftRight_eq_div_pow] using congrArg BitVec.toNat h
  apply BitVec.eq_of_toNat_eq
  simp only [Word.op, BitVec.toNat_setWidth, BitVec.extractLsb'_toNat, Nat.shiftRight_zero]
  omega

/-- The decoder reads a command from its one word only (30_encoding.md R101). -/
theorem eq_encode_of_decodeWord {w : Word} {i : Instr} (h : decodeWord w = .ok i) : w = encode i := by
  unfold decodeWord at h
  split at h
  next hr =>
    split at h
    next j hl =>
      obtain ⟨l₁, l₂, hmap, -⟩ := List.lookup_eq_some_iff.1 hl
      have hop : Word.op w = j.op := op_of_mem_opcodeMap (Word.op w, j) (by rw [hmap]; simp)
      injection h with h
      rw [word_eq_setWidth_op hr, hop, h, encode]
    next => cases h
  next => cases h

/-! ### The block and the record of the host -/

/-- The two states differ at most in the model's own fields: events, responses, delays and draws (logs 6 to 9). -/
def State.SameBlock (s t : State) : Prop :=
  ∃ ev r l d n, t = { s with events := ev, replies := r, latency := l, delay := d, draws := n }

theorem State.SameBlock.trans {s t u : State} (h : s.SameBlock t) (h' : t.SameBlock u) : s.SameBlock u := by
  obtain ⟨_, _, _, _, _, rfl⟩ := h
  obtain ⟨_, _, _, _, _, rfl⟩ := h'
  exact ⟨_, _, _, _, _, rfl⟩

theorem State.SameBlock.toReset {s t : State} (h : s.SameBlock t) : s.toReset.SameBlock t.toReset := by
  obtain ⟨_, _, _, _, _, rfl⟩ := h
  exact ⟨_, _, _, _, _, rfl⟩

theorem State.sameBlock_busError (s : State) : s.SameBlock s.busError := ⟨_, _, _, _, _, rfl⟩

theorem State.sameBlock_hostRead (s : State) (a : Addr) : s.SameBlock (s.hostRead a) := by
  obtain ⟨r, d, h⟩ := s.hostRead_cases a
  exact ⟨_, _, _, _, _, h⟩

theorem State.sameBlock_resetPin (s : State) : s.toReset.SameBlock s.resetPin := ⟨_, _, _, _, _, rfl⟩

theorem State.sameBlock_resetInFlight (s : State) : s.toReset.SameBlock s.resetInFlight := ⟨_, _, _, _, _, rfl⟩

/-- What an event can do to the block: nothing, a reset, or the effect of a WRITE on the location it selects. -/
theorem State.perform_cases (s : State) (e : HostOp) :
    s.SameBlock (s.perform e) ∨
    ((e = .resetPin ∨ e = .resetInFlight) ∧ s.toReset.SameBlock (s.perform e)) ∨
    ∃ a w l u, e = .write a w ∧ select s.params a = some l ∧ s.writeLoc l w = some u ∧
      u.SameBlock (s.perform e) := by
  cases e with
  | write a w =>
    rcases s.hostWrite_cases a w with h | ⟨l, u, hl, hu, h⟩
    · left; rw [State.perform, h]; exact s.sameBlock_busError
    · refine .inr (.inr ⟨a, w, l, u, rfl, hl, hu, ?_⟩)
      rw [State.perform, h]; exact ⟨_, _, _, _, _, rfl⟩
  | read a => exact .inl (s.sameBlock_hostRead a)
  | wait =>
    left
    obtain ⟨r, d, h⟩ := s.hostRead_cases (regAddr .status)
    simp only [State.perform, h]
    split <;> exact ⟨_, _, _, _, _, rfl⟩
  | resetPin => exact .inr (.inl ⟨.inl rfl, s.sameBlock_resetPin⟩)
  | resetInFlight => exact .inr (.inl ⟨.inr rfl, s.sameBlock_resetInFlight⟩)

/-- What a host turn can do; only the model's count of the turns left, `d`, has changed before it. -/
theorem State.hostTurn_cases {s : State} (d : Nat) (hturn : s.status.busy = false ∨ 0 < s.delay) :
    s.SameBlock ({ s with delay := d } : State).hostTurn ∨
    ((s.takes .resetPin ∨ s.takes .resetInFlight) ∧
      s.toReset.SameBlock ({ s with delay := d } : State).hostTurn) ∨
    ∃ a w l u v, s.takes (.write a w) ∧ select s.params a = some l ∧ s.SameBlock u ∧
      u.writeLoc l w = some v ∧ v.SameBlock ({ s with delay := d } : State).hostTurn := by
  unfold State.hostTurn
  cases hs : s.events with
  | nil => exact .inl ⟨_, _, _, _, _, rfl⟩
  | cons e rest =>
    have htakes : s.takes e := ⟨hturn, by rw [hs]; rfl⟩
    have same : s.SameBlock { s with delay := d, events := rest } := ⟨_, _, _, _, _, rfl⟩
    rcases State.perform_cases { s with delay := d, events := rest } e with
      h | ⟨he, h⟩ | ⟨a, w, l, v, rfl, hl, hv, h⟩
    · exact .inl (same.trans h)
    · refine .inr (.inl ⟨?_, same.toReset.trans h⟩)
      rcases he with rfl | rfl
      · exact .inl htakes
      · exact .inr htakes
    · exact .inr (.inr ⟨a, w, l, _, v, htakes, hl, same, hv, h⟩)

/-- What a step can do: complete the pending command, leave the block, reset it, or perform a WRITE. -/
theorem step_effect {s t : State} (h : step s = .next t) :
    (s.status.busy = true ∧ s.delay = 0 ∧ engineStep s = .next t) ∨
    s.SameBlock t ∨
    ((s.takes .resetPin ∨ s.takes .resetInFlight) ∧ s.toReset.SameBlock t) ∨
    ∃ a w l u v, s.takes (.write a w) ∧ select s.params a = some l ∧ s.SameBlock u ∧
      u.writeLoc l w = some v ∧ v.SameBlock t := by
  rcases step_cases h with ⟨hidle, rfl⟩ | ⟨-, d, hd, rfl⟩ | hcomplete
  · exact .inr (State.hostTurn_cases s.delay (.inl hidle))
  · exact .inr (State.hostTurn_cases d (.inr (by omega)))
  · exact .inl hcomplete

/-! ### The completion of the pending command -/

/-- What the completion of the pending word can do: error entry, reset, or the body of the command it is the word of. -/
theorem engineStep_effect {s t : State} (h : engineStep s = .next t) :
    (∃ op e, t = s.errorEntry op e) ∨
    (s.pending = some (encode .softReset) ∧ t = s.toReset) ∨
    ∃ i, i ≠ .softReset ∧ s.pending = some (encode i) ∧ t = (s.bodyOf i).finish i.op := by
  obtain ⟨w, hw, ⟨-, -, rfl⟩ | ⟨i, hi, hexec⟩⟩ := engineStep_cases h
  · exact .inl ⟨_, _, rfl⟩
  · obtain rfl := eq_encode_of_decodeWord hi
    rcases exec_cases hexec with ⟨rfl, rfl⟩ | ⟨-, e, -, rfl⟩ | ⟨hne, -, rfl⟩
    · exact .inr (.inl ⟨hw, rfl⟩)
    · exact .inl ⟨_, _, rfl⟩
    · exact .inr (.inr ⟨i, hne, hw, rfl⟩)

/-- A completion leaves the block idle (10_state.md R38, R58). -/
theorem engineStep_idle {s t : State} (h : engineStep s = .next t) :
    t.status.busy = false ∧ t.pending = none := by
  rcases engineStep_effect h with ⟨op, e, rfl⟩ | ⟨-, rfl⟩ | ⟨i, -, -, rfl⟩ <;> exact ⟨rfl, rfl⟩

theorem exec_isNext (i : Instr) (s : State) : ∃ t, exec i s = .next t := by
  by_cases hi : i = .softReset
  · exact ⟨_, hi ▸ exec_softReset s⟩
  · rw [exec_eq_complete hi]
    cases s.checkOf i with
    | some e => exact ⟨_, rfl⟩
    | none => exact ⟨_, rfl⟩

theorem engineStep_isNext {s : State} (h : s.pending.isSome = true) : ∃ t, engineStep s = .next t := by
  obtain ⟨w, hw⟩ := Option.isSome_iff_exists.1 h
  unfold engineStep
  cases hd : decodeWord w with
  | error r => simp [hw, hd]
  | ok i => simpa [hw, hd] using exec_isNext i s

theorem step_isNext {s : State} (h : s.status.busy = true → s.pending.isSome = true) : ∃ t, step s = .next t := by
  unfold step State.advance
  split
  next hb =>
    split
    · exact engineStep_isNext (h hb)
    · exact ⟨_, rfl⟩
  · exact ⟨_, rfl⟩

/-! ### The effect of a WRITE -/

/-- A WRITE writes at most BUSY, DONE and DROPPED of STATUS, and neither ERR_INFO nor the build nor a descriptor. -/
theorem State.writeLoc_keeps {s t : State} {l : Loc} {w : Word} (h : s.writeLoc l w = some t) :
    (∃ busy done dropped, t.status = { s.status with busy := busy, done := done, dropped := dropped }) ∧
    t.errInfo = s.errInfo ∧ t.params = s.params ∧ ∀ d, t.desc d = s.desc d := by
  rcases State.writeLoc_cases h with ⟨-, rfl⟩ | ⟨-, rfl | rfl⟩ | ⟨-, rfl⟩ | ⟨-, rfl, -⟩ |
    ⟨-, ⟨-, rfl⟩ | ⟨-, rfl⟩ | ⟨-, rfl⟩ | ⟨-, rfl⟩ | ⟨_, -, rfl⟩⟩
  case inl =>
    rcases s.accept_cases w with ⟨h, -⟩ | ⟨-, -, _, _, _, h⟩ <;>
      (rw [h]; exact ⟨⟨_, _, _, rfl⟩, rfl, rfl, fun _ => rfl⟩)
  all_goals exact ⟨⟨_, _, _, rfl⟩, rfl, rfl, fun _ => rfl⟩

/-- A WRITE accepts a command word (42_control.md R180), or leaves BUSY and PENDING and does not set DONE. -/
theorem State.writeLoc_accepts_or_keeps {s t : State} {l : Loc} {w : Word} (h : s.writeLoc l w = some t) :
    (l = .reg .cmd ∧ s.status.busy = false ∧
      (s.status.err = true → w = encode .softReset ∨ w = encode .clearStatus) ∧
      t.status.busy = true ∧ t.pending = some w ∧ t.status.done = false) ∨
    (t.status.busy = s.status.busy ∧ t.pending = s.pending ∧
      (t.status.done = s.status.done ∨ t.status.done = false)) := by
  rcases State.writeLoc_cases h with ⟨hl, rfl⟩ | ⟨-, rfl | rfl⟩ | ⟨-, rfl⟩ | ⟨-, rfl, -⟩ | ⟨-, hidle⟩
  · rcases s.accept_cases w with ⟨h, -⟩ | ⟨hb, hlock, _, _, _, h⟩ <;> rw [h]
    · exact .inr ⟨rfl, rfl, .inl rfl⟩
    · exact .inl ⟨hl, hb, hlock, rfl, rfl, rfl⟩
  · exact .inr ⟨rfl, rfl, .inl rfl⟩
  · exact .inr ⟨rfl, rfl, .inr rfl⟩
  · exact .inr ⟨rfl, rfl, .inl rfl⟩
  · exact .inr ⟨rfl, rfl, .inl rfl⟩
  · rcases hidle with ⟨-, rfl⟩ | ⟨-, rfl⟩ | ⟨-, rfl⟩ | ⟨-, rfl⟩ | ⟨_, -, rfl⟩ <;> exact .inr ⟨rfl, rfl, .inl rfl⟩

/-- A WRITE that changes DROPPED sets it: it is a discarded one (10_state.md R42). -/
theorem State.writeLoc_drops_or_keeps {s t : State} {l : Loc} {w : Word} (h : s.writeLoc l w = some t) :
    (t.status.dropped = true ∧
      ((l = .reg .cmd ∧ (s.status.busy = true ∨
        (s.status.err = true ∧ w ≠ encode .softReset ∧ w ≠ encode .clearStatus))) ∨
       (s.status.busy = true ∧
        (l ∈ [Loc.reg .cfgN, .reg .cfgF, .reg .cfgC, .reg .cfgAlpha] ∨ ∃ i, l = .entry .sin i)))) ∨
    t.status.dropped = s.status.dropped := by
  rcases State.writeLoc_cases h with ⟨hl, rfl⟩ | ⟨-, rfl | rfl⟩ | ⟨-, rfl⟩ | ⟨hb, rfl, hl⟩ | ⟨-, hidle⟩
  · rcases s.accept_cases w with ⟨h, hwhy⟩ | ⟨-, -, _, _, _, h⟩ <;> rw [h]
    · exact .inl ⟨rfl, .inl ⟨hl, hwhy⟩⟩
    · exact .inr rfl
  · exact .inr rfl
  · exact .inr rfl
  · exact .inr rfl
  · exact .inl ⟨rfl, .inr ⟨hb, by simpa using hl⟩⟩
  · rcases hidle with ⟨-, rfl⟩ | ⟨-, rfl⟩ | ⟨-, rfl⟩ | ⟨-, rfl⟩ | ⟨_, -, rfl⟩ <;> exact .inr rfl

/-! ### STATUS and ERR_INFO of the commands' bodies -/

theorem State.writeRun_status (s : State) :
    s.writeRun.status = { s.status with nf := s.writeRun.status.nf } := by
  simp [State.writeRun]

/-- The writes of every command but SOFT_RESET and CLEAR_STATUS leave STATUS, but for NF, and ERR_INFO (10_state.md R40,
R41). -/
theorem State.bodyOf_status (s : State) {i : Instr} (hr : i ≠ .softReset) (hc : i ≠ .clearStatus) :
    (∃ nf, (s.bodyOf i).status = { s.status with nf := nf }) ∧ (s.bodyOf i).errInfo = s.errInfo := by
  cases i with
  | softReset => exact absurd rfl hr
  | clearStatus => exact absurd rfl hc
  | log => exact ⟨⟨_, rfl⟩, rfl⟩
  | run => exact ⟨⟨_, s.writeRun_status⟩, s.writeRun_errInfo⟩
  | nop | buildHann | buildFb | preemph | window | dft | mag | melfb => exact ⟨⟨s.status.nf, rfl⟩, rfl⟩

/-- NF is written by LOG and RUN only, and by reset (10_state.md R41). -/
theorem State.bodyOf_nf (s : State) {i : Instr} (hr : i ≠ .softReset) (hl : i ≠ .log) (hn : i ≠ .run) :
    (s.bodyOf i).status.nf = s.status.nf := by
  cases i with
  | softReset => exact absurd rfl hr
  | log => exact absurd rfl hl
  | run => exact absurd rfl hn
  | nop | clearStatus | buildHann | buildFb | preemph | window | dft | mag | melfb => rfl

theorem State.bodyOf_params (s : State) (i : Instr) : (s.bodyOf i).params = s.params := by
  cases i with
  | run => exact s.writeRun_params
  | nop | softReset | clearStatus | buildHann | buildFb | preemph | window | dft | mag | melfb | log => rfl

/-! ### Facts about one state or one flag -/

/-- An idle block without a pending word meets the command invariant. -/
theorem State.commandInv_of_idle {s : State} (h : s.status.busy = false ∧ s.pending = none) : s.commandInv := by
  obtain ⟨hb, hp⟩ := h
  simp [State.commandInv, hb, hp]

theorem ErrCode.byte_mem (c : ErrCode) : c.byte ∈ [0x01#8, 0x02#8, 0x03#8, 0x04#8, 0x05#8] := by
  cases c <;> decide

/-- A flag that did not change was neither set nor cleared. -/
theorem not_set_not_cleared {a b : Bool} (h : b = a) {P Q : Prop} :
    (a = false → b = true → P) ∧ (a = true → b = false → Q) := by
  subst h; cases b <;> simp

end Sys2Proof.Machine
end

section
/-! PROOFS. The descriptors: which command writes which (10_state.md R51 to R53), and that each covers entries that hold
values (R50, R56). No entry but by reset ever loses its value, so a descriptor that is kept keeps covering its entries,
and one that is written covers what its command has just filled. -/

namespace Sys2Proof.Machine

/-! ### Which descriptors a command writes -/

/-- The descriptors a command's body writes; SOFT_RESET clears them all. -/
def producedDescs : Instr → List DescName
  | .nop | .clearStatus => []
  | .buildHann => [.hann]
  | .buildFb => [.fb]
  | .preemph => [.pre]
  | .window => [.win]
  | .dft => [.dft]
  | .mag => [.amp]
  | .melfb => [.mel]
  | .log => [.log]
  | .softReset | .run => [.hann, .fb, .pre, .win, .dft, .amp, .mel, .log]

/-- A body leaves every descriptor that is not its own. -/
theorem State.bodyOf_keepsDescs (s : State) (i : Instr) : s.keepsDescs (s.bodyOf i) (producedDescs i) := by
  intro d hd
  cases i with
  | nop | clearStatus => rfl
  | softReset | run => exact absurd (by cases d <;> decide) hd
  | buildHann | buildFb | preemph | window | dft | mag | melfb | log =>
    cases d <;> simp_all [producedDescs, State.bodyOf, State.desc]

/-- The command that writes a descriptor is its producer, RUN or SOFT_RESET. -/
theorem encode_of_mem_producedDescs {i : Instr} :
    ∀ x ∈ [(DescName.hann, 0x01#64), (.fb, 0x02#64), (.pre, 0x10#64), (.win, 0x11#64), (.dft, 0x12#64),
        (.amp, 0x13#64), (.mel, 0x14#64), (.log, 0x15#64)],
      x.1 ∈ producedDescs i → encode i = x.2 ∨ encode i = 0x20 ∨ encode i = 0x0E := by
  cases i <;> decide

/-! ### Entries keep their values -/

/-- Every entry that holds a value in `s` holds one in `t`. -/
def State.keepsValues (s t : State) : Prop := ∀ a, (s.mem.read a).isSome = true → (t.mem.read a).isSome = true

theorem State.keepsValues_of_mem_eq {s t : State} (h : t.mem = s.mem) : s.keepsValues t := by
  intro a ha; rwa [h]

theorem State.keepsValues_of_fill {s t : State} {base n : Nat} {v : Nat → Word} (h : t.mem = s.mem.fill base n v) :
    s.keepsValues t := by
  intro a ha; rw [h]; exact Mem.isSome_read_fill ha

theorem State.writeFb_keepsValues (s : State) : s.keepsValues s.writeFb := by
  intro a ha
  rw [State.writeFb_mem]
  exact Mem.isSome_read_fillRows _ (Mem.isSome_read_fill (Mem.isSome_read_fill (Mem.isSome_read_fill ha)))

theorem State.writeDft_keepsValues (s : State) : s.keepsValues s.writeDft := by
  intro a ha
  rw [State.writeDft_mem]
  exact Mem.isSome_read_fill (Mem.isSome_read_fill ha)

/-- An entry of a filled row holds a value, even where the rows of an illegal build overlap. -/
theorem Mem.isSome_read_fillRows_of_lt {m : Mem} {n k i c : Nat} {v : Nat → Nat → Word} (hk : k < c) (hi : i < n) :
    ((m.fillRows n v c).read ((Buffer.fbw k).addr i)).isSome = true := by
  induction c with
  | zero => omega
  | succ c ih =>
    rcases Nat.lt_succ_iff_lt_or_eq.1 hk with hk | rfl
    · exact Mem.isSome_read_fill (ih hk)
    · exact Option.isSome_iff_exists.2 ⟨_, Mem.read_fill_of_mem hi⟩

/-! ### The descriptor invariant, descriptor by descriptor -/

/-- What `descInv` says of one descriptor. -/
def State.covers (s : State) : DescName → Prop
  | .hann => s.descCovers .hann .hann
  | .fb => s.fbCovers
  | .pre => s.descCovers .pre .pre
  | .win => s.descCovers .win .win
  | .dft => s.descCovers .dft .re ∧ s.descCovers .dft .im
  | .amp => s.descCovers .amp .amp
  | .mel => s.descCovers .mel .mel
  | .log => s.descCovers .log .logmel

theorem State.descInv_iff {s : State} : s.descInv ↔ ∀ d, s.covers d := by
  constructor
  · rintro ⟨hann, pre, win, re, im, amp, mel, log, fb⟩ d
    cases d
    exacts [hann, fb, pre, win, ⟨re, im⟩, amp, mel, log]
  · intro h
    exact ⟨h .hann, h .pre, h .win, (h .dft).1, (h .dft).2, h .amp, h .mel, h .log, h .fb⟩

/-- A descriptor that is kept still covers its entries. -/
theorem State.descCovers_of_keeps {s t : State} {d : DescName} {b : Buffer} (hv : s.keepsValues t)
    (hd : t.desc d = s.desc d) (h : s.descCovers d b) : t.descCovers d b := by
  obtain ⟨hch, hclear, hentry⟩ := h
  unfold State.descCovers
  rw [hd]
  exact ⟨hch, hclear, fun i hi => hv _ (hentry i hi)⟩

theorem State.fbCovers_of_keeps {s t : State} (hv : s.keepsValues t) (hd : t.fbDesc = s.fbDesc) (h : s.fbCovers) :
    t.fbCovers := by
  obtain ⟨hclear, htables, hrows⟩ := h
  unfold State.fbCovers
  rw [hd]
  refine ⟨hclear, fun k hk => ?_, fun k i hk hi => hv _ (hrows k i hk hi)⟩
  obtain ⟨hstart, hcenter, hend⟩ := htables k hk
  exact ⟨hv _ hstart, hv _ hcenter, hv _ hend⟩

theorem State.covers_of_keeps {s t : State} {d : DescName} (hv : s.keepsValues t) (hd : t.desc d = s.desc d)
    (h : s.covers d) : t.covers d := by
  cases d with
  | fb => exact State.fbCovers_of_keeps hv hd h
  | dft => exact ⟨State.descCovers_of_keeps hv hd h.1, State.descCovers_of_keeps hv hd h.2⟩
  | hann | pre | win | amp | mel | log => exact State.descCovers_of_keeps hv hd h

/-- A descriptor written for length l covers its buffer, if the entries below l hold values. -/
theorem State.descCovers_of_ofLen {t : State} {d : DescName} {b : Buffer} {l : Nat} (hd : t.desc d = Desc.ofLen l)
    (h : ∀ i, i < l → (t.entry b i).isSome = true) : t.descCovers d b := by
  unfold State.descCovers
  rw [hd]
  refine ⟨rfl, by simp [Desc.ofLen], fun i hi => h i ?_⟩
  have hle : (BitVec.ofNat 32 l).toNat ≤ l := Nat.mod_le _ _
  exact Nat.lt_of_lt_of_le hi hle

/-- The usual producer: its buffer is filled below l, and its descriptor written for l. -/
theorem State.descCovers_of_fill {s t : State} {d : DescName} {b : Buffer} {l : Nat} {v : Nat → Word}
    (hd : t.desc d = Desc.ofLen l) (h : t.mem = s.mem.fill b.base l v) : t.descCovers d b :=
  State.descCovers_of_ofLen hd fun i hi => by rw [State.entry_of_fill h hi]; rfl

theorem State.covers_of_empty {t : State} {d : DescName} (h : t.desc d = Desc.empty) : t.covers d := by
  have plain : ∀ b, t.descCovers d b := by
    intro b; unfold State.descCovers; rw [h]; exact ⟨rfl, fun _ => rfl, fun i hi => absurd hi (Nat.not_lt_zero i)⟩
  cases d with
  | fb =>
    have hfb : t.fbDesc = Desc.empty := h
    unfold State.covers State.fbCovers
    rw [hfb]
    exact ⟨fun _ => ⟨rfl, rfl⟩, fun k hk => absurd hk (Nat.not_lt_zero k), fun k _ hk => absurd hk (Nat.not_lt_zero k)⟩
  | dft => exact ⟨plain .re, plain .im⟩
  | hann | pre | win | amp | mel | log => exact plain _

/-- The reset state has the descriptor invariant: every descriptor is clear. -/
theorem State.descInv_resetOf (p : Params) : (State.resetOf p).descInv :=
  State.descInv_iff.2 fun d => State.covers_of_empty (by cases d <;> rfl)

theorem State.descInv_of_keeps {s t : State} (hv : s.keepsValues t) (hd : ∀ d, t.desc d = s.desc d) (h : s.descInv) :
    t.descInv :=
  State.descInv_iff.2 fun d => State.covers_of_keeps hv (hd d) (State.descInv_iff.1 h d)

/-- A body that writes one descriptor keeps the invariant, if that descriptor covers its entries after it. -/
theorem State.descInv_of_produced {s t : State} {d : DescName} (hv : s.keepsValues t) (hd : s.keepsDescs t [d])
    (hcovers : t.covers d) (h : s.descInv) : t.descInv := by
  refine State.descInv_iff.2 fun d' => ?_
  by_cases hd' : d' = d
  · rw [hd']; exact hcovers
  · exact State.covers_of_keeps hv (hd d' (by simpa using hd')) (State.descInv_iff.1 h d')

/-! ### Every body keeps the invariant -/

section
variable {s : State} (h : s.descInv)
include h

theorem State.descInv_writeHann : s.writeHann.descInv :=
  State.descInv_of_produced (State.keepsValues_of_fill s.writeHann_mem) (s.bodyOf_keepsDescs .buildHann)
    (State.descCovers_of_fill s.writeHann_hannDesc s.writeHann_mem) h

theorem State.descInv_writePreemph : s.writePreemph.descInv :=
  State.descInv_of_produced (State.keepsValues_of_fill s.writePreemph_mem) (s.bodyOf_keepsDescs .preemph)
    (State.descCovers_of_fill s.writePreemph_preDesc s.writePreemph_mem) h

theorem State.descInv_writeWindow : s.writeWindow.descInv :=
  State.descInv_of_produced (State.keepsValues_of_fill s.writeWindow_mem) (s.bodyOf_keepsDescs .window)
    (State.descCovers_of_fill s.writeWindow_winDesc s.writeWindow_mem) h

theorem State.descInv_writeMag : s.writeMag.descInv :=
  State.descInv_of_produced (State.keepsValues_of_fill s.writeMag_mem) (s.bodyOf_keepsDescs .mag)
    (State.descCovers_of_fill s.writeMag_ampDesc s.writeMag_mem) h

theorem State.descInv_writeMelfb : s.writeMelfb.descInv :=
  State.descInv_of_produced (State.keepsValues_of_fill s.writeMelfb_mem) (s.bodyOf_keepsDescs .melfb)
    (State.descCovers_of_fill s.writeMelfb_melDesc s.writeMelfb_mem) h

theorem State.descInv_writeLog : s.writeLog.descInv :=
  State.descInv_of_produced (State.keepsValues_of_fill s.writeLog_mem) (s.bodyOf_keepsDescs .log)
    (State.descCovers_of_fill s.writeLog_logDesc s.writeLog_mem) h

/-- IM is filled after RE, whose entries keep their values. -/
theorem State.descInv_writeDft : s.writeDft.descInv := by
  refine State.descInv_of_produced s.writeDft_keepsValues (s.bodyOf_keepsDescs .dft) ⟨?re, ?im⟩ h
  case re =>
    refine State.descCovers_of_ofLen s.writeDft_dftDesc fun i hi => Mem.isSome_read_fill ?_
    exact Option.isSome_iff_exists.2 ⟨_, Mem.read_fill_of_mem hi⟩
  case im =>
    refine State.descCovers_of_ofLen s.writeDft_dftDesc fun i hi => ?_
    exact Option.isSome_iff_exists.2 ⟨_, Mem.read_fill_of_mem hi⟩

/-- CH and LEN hold at most C and NYQ, and every entry below those has been filled. -/
theorem State.descInv_writeFb : s.writeFb.descInv := by
  refine State.descInv_of_produced s.writeFb_keepsValues (s.bodyOf_keepsDescs .buildFb) ⟨?clear, ?tables, ?rows⟩ h
  case clear => intro hv; cases hv
  case tables =>
    intro k hk
    have hk' : k < s.c := Nat.lt_of_lt_of_le hk (Nat.mod_le _ _)
    have filled : ∀ (m : Mem) (b : Buffer) (v : Nat → Word), ((m.fill b.base s.c v).read (b.addr k)).isSome = true :=
      fun m b v => Option.isSome_iff_exists.2 ⟨_, Mem.read_fill_of_mem hk'⟩
    exact ⟨Mem.isSome_read_fillRows _ (Mem.isSome_read_fill (Mem.isSome_read_fill (filled ..))),
      Mem.isSome_read_fillRows _ (Mem.isSome_read_fill (filled ..)), Mem.isSome_read_fillRows _ (filled ..)⟩
  case rows =>
    intro k i hk hi
    exact Mem.isSome_read_fillRows_of_lt (Nat.lt_of_lt_of_le hk (Nat.mod_le _ _))
      (Nat.lt_of_lt_of_le hi (Nat.mod_le _ _))

theorem State.descInv_writeRun : s.writeRun.descInv :=
  State.descInv_writeLog <| State.descInv_writeMelfb <| State.descInv_writeMag <| State.descInv_writeDft <|
    State.descInv_writeWindow <| State.descInv_writePreemph <| State.descInv_writeFb <| State.descInv_writeHann h

theorem State.descInv_bodyOf (i : Instr) : (s.bodyOf i).descInv := by
  cases i with
  | nop => exact h
  | clearStatus => exact h
  | softReset => exact State.descInv_resetOf s.params
  | buildHann => exact State.descInv_writeHann h
  | buildFb => exact State.descInv_writeFb h
  | preemph => exact State.descInv_writePreemph h
  | window => exact State.descInv_writeWindow h
  | dft => exact State.descInv_writeDft h
  | mag => exact State.descInv_writeMag h
  | melfb => exact State.descInv_writeMelfb h
  | log => exact State.descInv_writeLog h
  | run => exact State.descInv_writeRun h

end

/-- A WRITE leaves memory, or fills the entry of one sample. -/
theorem State.writeLoc_keepsValues {s t : State} {l : Loc} {w : Word} (h : s.writeLoc l w = some t) :
    s.keepsValues t := by
  rcases State.writeLoc_cases h with ⟨-, rfl⟩ | ⟨-, rfl | rfl⟩ | ⟨-, rfl⟩ | ⟨-, rfl, -⟩ | ⟨-, hidle⟩
  · rcases s.accept_cases w with ⟨h, -⟩ | ⟨-, -, _, _, _, h⟩ <;> (rw [h]; exact State.keepsValues_of_mem_eq rfl)
  · exact State.keepsValues_of_mem_eq rfl
  · exact State.keepsValues_of_mem_eq rfl
  · exact State.keepsValues_of_mem_eq rfl
  · exact State.keepsValues_of_mem_eq rfl
  · rcases hidle with ⟨-, rfl⟩ | ⟨-, rfl⟩ | ⟨-, rfl⟩ | ⟨-, rfl⟩ | ⟨_, -, rfl⟩
    iterate 4 exact State.keepsValues_of_mem_eq rfl
    exact State.keepsValues_of_fill rfl

end Sys2Proof.Machine
end

section
/-! PROOFS. The registers as the host reads and writes them (10_state.md R33 to R53), and a sample on the bus (R57). -/

namespace Sys2Proof.Machine

/-! ### Transactions on a register -/

theorem select_regAddr (p : Params) (r : Reg) : select p (regAddr r) = some (.reg r) := by
  cases r with
  | desc d => cases d <;> rfl
  | id | version | capN | capF | capC | capFmt | cmd | status | ctrl | errInfo | cfgN | cfgF | cfgC | cfgAlpha => rfl

/-- A READ of a register answers its word. -/
theorem State.hostRead_regAddr (s : State) (r : Reg) : s.hostRead (regAddr r) = s.reply ⟨true, some (s.regWord r)⟩ := by
  simp [State.hostRead, select_regAddr, State.readLoc]

theorem State.hostWrite_of_some {s t : State} {a : Addr} {l : Loc} {w : Word} (hl : select s.params a = some l)
    (hw : s.writeLoc l w = some t) : s.hostWrite a w = t.reply ⟨true, none⟩ := by
  simp [State.hostWrite, hl, hw]

/-- A WRITE that the register takes. -/
theorem State.hostWrite_regAddr {s t : State} {r : Reg} {w : Word} (h : s.writeLoc (.reg r) w = some t) :
    s.hostWrite (regAddr r) w = t.reply ⟨true, none⟩ :=
  State.hostWrite_of_some (select_regAddr _ r) h

/-- A WRITE of a read-only register. -/
theorem State.hostWrite_readOnly {s : State} {r : Reg} {w : Word} (h : s.writeLoc (.reg r) w = none) :
    s.hostWrite (regAddr r) w = s.busError := by
  simp [State.hostWrite, select_regAddr, h]

/-! ### The words of STATUS and of a descriptor -/

theorem getLsbD_bitAt (b : Bool) {k : Nat} (hk : k < 64) (i : Nat) :
    (bitAt b k).getLsbD i = (b && decide (i = k)) := by
  cases b
  · simp [bitAt]
  · simp only [bitAt, if_true, BitVec.getLsbD_shiftLeft, BitVec.getLsbD_one, Bool.true_and]
    grind

/-- STATUS bit by bit (10_state.md R37). -/
theorem Status.getLsbD_word (t : Status) {i : Nat} (hi : i < 64) :
    t.word.getLsbD i =
      (t.busy && decide (i = 0) || t.done && decide (i = 1) || t.err && decide (i = 2) ||
       t.dropped && decide (i = 3) || t.nf && decide (i = 4) ||
       !decide (i < 8) && t.errcode.getLsbD (i - 8) || !decide (i < 16) && t.lastop.getLsbD (i - 16)) := by
  have h8 : i - 8 < 64 := by omega
  have h16 : i - 16 < 64 := by omega
  simp only [Status.word, BitVec.getLsbD_or, BitVec.getLsbD_shiftLeft, BitVec.getLsbD_setWidth, getLsbD_bitAt,
    Nat.reduceLT, hi, h8, h16]
  simp

theorem Status.word_reset : Status.reset.word = 0 := by decide

/-- A descriptor bit by bit (10_state.md R50). -/
theorem Desc.getLsbD_word (d : Desc) {i : Nat} (hi : i < 64) :
    d.word.getLsbD i =
      (d.v && decide (i = 63) || !decide (i < 32) && d.ch.getLsbD (i - 32) || d.len.getLsbD i) := by
  have h32 : i - 32 < 64 := by omega
  simp only [Desc.word, BitVec.getLsbD_or, BitVec.getLsbD_shiftLeft, BitVec.getLsbD_setWidth, getLsbD_bitAt,
    Nat.reduceLT, hi, h32]
  simp

theorem Desc.word_empty : Desc.empty.word = 0 := by decide

/-- A field of a word, from its bits. -/
theorem extractLsb'_eq_of_bits {w : Word} {start len : Nat} {x : BitVec len}
    (h : ∀ i, i < len → w.getLsbD (start + i) = x.getLsbD i) : w.extractLsb' start len = x := by
  apply BitVec.eq_of_getLsbD_eq
  intro i hi
  rw [BitVec.getLsbD_extractLsb', h i hi]; simp [hi]

/-! The fields of STATUS and of a descriptor that are wider than a bit. -/

section
variable (t : Status) (d : Desc)

theorem Status.word_errcode : t.word.extractLsb' 8 8 = t.errcode := by
  refine extractLsb'_eq_of_bits fun i hi => ?_
  rw [Status.getLsbD_word _ (by omega)]
  simp (disch := omega) [decide_eq_true, decide_eq_false]

theorem Status.word_lastop : t.word.extractLsb' 16 8 = t.lastop := by
  refine extractLsb'_eq_of_bits fun i hi => ?_
  rw [Status.getLsbD_word _ (by omega)]
  simp (disch := omega) [decide_eq_false, BitVec.getLsbD_of_ge]

theorem Status.word_reserved_low : t.word.extractLsb' 5 3 = 0 := by
  refine extractLsb'_eq_of_bits fun i hi => ?_
  rw [Status.getLsbD_word _ (by omega)]
  simp (disch := omega) [decide_eq_true, decide_eq_false]

theorem Status.word_reserved_high : t.word.extractLsb' 24 40 = 0 := by
  refine extractLsb'_eq_of_bits fun i hi => ?_
  rw [Status.getLsbD_word _ (by omega)]
  simp (disch := omega) [decide_eq_false, BitVec.getLsbD_of_ge]

theorem Desc.word_reserved : d.word.extractLsb' 48 15 = 0 := by
  refine extractLsb'_eq_of_bits fun i hi => ?_
  rw [Desc.getLsbD_word _ (by omega)]
  simp (disch := omega) [decide_eq_false, BitVec.getLsbD_of_ge]

theorem Desc.word_ch : d.word.extractLsb' 32 16 = d.ch := by
  refine extractLsb'_eq_of_bits fun i hi => ?_
  rw [Desc.getLsbD_word _ (by omega)]
  simp (disch := omega) [decide_eq_false, BitVec.getLsbD_of_ge]

theorem Desc.word_len : d.word.extractLsb' 0 32 = d.len := by
  refine extractLsb'_eq_of_bits fun i hi => ?_
  rw [Desc.getLsbD_word _ (by omega)]
  simp (disch := omega) [decide_eq_true, decide_eq_false]

end

/-! ### Words of 32 and 64 bits -/

/-- A capacity below 2^32 is its register's low half, and the upper half is 0. -/
theorem halves_of_lt {k : Nat} (h : k < 2 ^ 32) :
    (BitVec.ofNat 64 k).extractLsb' 0 32 = BitVec.ofNat 32 k ∧ (BitVec.ofNat 32 k).toNat = k ∧
    (BitVec.ofNat 64 k).extractLsb' 32 32 = 0 := by
  have toNat64 : (BitVec.ofNat 64 k).toNat = k := Nat.mod_eq_of_lt (by omega)
  refine ⟨BitVec.eq_of_toNat_eq ?_, Nat.mod_eq_of_lt h, BitVec.eq_of_toNat_eq ?_⟩
  · simp [toNat64]
  · rw [BitVec.extractLsb'_toNat, toNat64, Nat.shiftRight_eq_div_pow, Nat.div_eq_of_lt h]; rfl

/-- With binary32 a `Num` location keeps bits 31:0 of a written word (20_memory.md R83). -/
theorem truncNum_binary32 (w : Word) : truncNum .binary32 w = (w.extractLsb' 0 32).setWidth 64 := by
  apply BitVec.eq_of_toNat_eq
  have mask : (0x00000000FFFFFFFF#64).toNat = 2 ^ 32 - 1 := rfl
  rw [truncNum, BitVec.toNat_and, mask, Nat.and_two_pow_sub_one_eq_mod, BitVec.toNat_setWidth,
    BitVec.extractLsb'_toNat, Nat.shiftRight_zero]
  omega

theorem capacities_le_of_legal {p : Params} (h : p.legal = true) :
    p.nMax ≤ 2 ^ 24 ∧ p.fMax ≤ 2 ^ 24 ∧ p.cMax ≤ 128 := by
  simp only [Params.legal, Bool.and_eq_true, decide_eq_true_eq] at h; omega

/-! ### A sample on the bus -/

theorem select_sin {p : Params} {i : Nat} (hp : p.legal = true) (hi : i < p.nMax) :
    select p (BitVec.ofNat 32 (0x01000000 + i)) = some (.entry .sin i) := by
  obtain ⟨hmax, -, -⟩ := capacities_le_of_legal hp
  have toNat : (BitVec.ofNat 32 (0x01000000 + i)).toNat = 2 ^ 24 + i := Nat.mod_eq_of_lt (by omega)
  have region : Addr.region (BitVec.ofNat 32 (0x01000000 + i)) = 1 := by rw [Addr.region, toNat]; omega
  have offset : Addr.offset (BitVec.ofNat 32 (0x01000000 + i)) = i := by rw [Addr.offset, toNat]; omega
  simp [select, region, offset, Buffer.ofRegion, Buffer.capacity, hi]

/-- A WRITE of a sample while the block is idle (20_memory.md R81). -/
theorem State.hostWrite_sin {s : State} {i : Nat} (hp : s.params.legal = true) (hb : s.status.busy = false)
    (hi : i < s.params.nMax) (w : Word) :
    s.hostWrite (BitVec.ofNat 32 (0x01000000 + i)) w =
      { s with
        mem := s.mem.write (Buffer.sin.addr i) (truncNum s.params.numFmt w)
        replies := ⟨true, none⟩ :: s.replies } := by
  have idle : s.writeLoc (.entry .sin i) w =
      some { s with mem := s.mem.write (Buffer.sin.addr i) (truncNum s.params.numFmt w) } := by
    simp [State.writeLoc, State.writeIdle, hb]
  exact State.hostWrite_of_some (select_sin hp hi) idle

/-- While the block is idle, a READ of a sample that holds a value answers it. -/
theorem State.hostRead_sin {s : State} {a : Addr} {i : Nat} {v : Word} (hl : select s.params a = some (.entry .sin i))
    (hb : s.status.busy = false) (hv : s.entry .sin i = some v) : s.hostRead a = s.reply ⟨true, some v⟩ := by
  have outside : s.inWriteSet .sin i = false := by unfold State.inWriteSet; rw [hb]
  simp [State.hostRead, hl, State.readLoc, outside, State.withinDesc, hv]

end Sys2Proof.Machine
end

section
/-! PROOFS. The statements about the block's state (family 10_state.md), settled: what a step keeps, what it changes,
and the registers one by one. -/

namespace Sys2Proof.Machine

/-- Settles O56: a completion and a reset leave the block idle; of the writes only an acceptance touches BUSY and
PENDING. -/
theorem stepKeepsTheCommandInvariant : Obligations.StepKeepsTheCommandInvariant := by
  intro s hinv
  obtain ⟨t, ht⟩ := step_isNext (s := s) (fun hb => hinv.1 ▸ hb)
  refine ⟨t, ht, ?_⟩
  rcases step_effect ht with ⟨-, -, h⟩ | same | ⟨-, same⟩ | ⟨a, w, l, u, v, -, -, same, hwrite, same'⟩
  · exact State.commandInv_of_idle (engineStep_idle h)
  · obtain ⟨_, _, _, _, _, rfl⟩ := same; exact hinv
  · obtain ⟨_, _, _, _, _, rfl⟩ := same; exact State.commandInv_of_idle ⟨rfl, rfl⟩
  · obtain ⟨_, _, _, _, _, rfl⟩ := same
    obtain ⟨_, _, _, _, _, rfl⟩ := same'
    obtain ⟨hpending, hdone, hlock⟩ := hinv
    obtain ⟨⟨_, _, _, hstatus⟩, -⟩ := State.writeLoc_keeps hwrite
    have herr : v.status.err = s.status.err := by rw [hstatus]
    rcases State.writeLoc_accepts_or_keeps hwrite with ⟨-, -, hw, hb, hp, hd⟩ | ⟨hb, hp, hd⟩
    · exact ⟨by simp [hb, hp], fun _ => hd, fun _ he => by simpa [hp] using hw (herr ▸ he)⟩
    · refine ⟨by simpa [hb, hp] using hpending, fun hbusy => ?_, fun hbusy he => ?_⟩
      · exact hd.elim (fun hd => hd.trans (hdone (hb ▸ hbusy))) id
      · simpa [hp] using hlock (hb ▸ hbusy) (herr ▸ he)

/-- Settles O57: an error entry records a code of the table, CLEAR_STATUS and a reset clear all of it, and nothing else
writes ERR, ERRCODE or ERR_INFO. -/
theorem stepKeepsTheErrorInvariant : Obligations.StepKeepsTheErrorInvariant := by
  intro s t hinv ht
  obtain ⟨hclear, hcode⟩ := hinv
  rcases step_effect ht with ⟨-, -, h⟩ | same | ⟨-, same⟩ | ⟨a, w, l, u, v, -, -, same, hwrite, same'⟩
  · rcases engineStep_effect h with ⟨op, e, rfl⟩ | ⟨-, rfl⟩ | ⟨i, hi, -, rfl⟩
    · refine ⟨by simp, fun _ => ?_⟩
      cases he : s.status.err with
      | true => simpa [he] using hcode he
      | false => simpa [he] using e.code.byte_mem
    · exact ⟨fun _ => ⟨rfl, rfl⟩, by simp [Status.reset]⟩
    · by_cases hc : i = .clearStatus
      · subst hc; exact ⟨fun _ => ⟨rfl, rfl⟩, by simp [State.bodyOf]⟩
      · obtain ⟨⟨_, hstatus⟩, hinfo⟩ := s.bodyOf_status hi hc
        simpa [State.errorInv, hstatus, hinfo] using And.intro hclear hcode
  · obtain ⟨_, _, _, _, _, rfl⟩ := same; exact ⟨hclear, hcode⟩
  · obtain ⟨_, _, _, _, _, rfl⟩ := same; exact ⟨fun _ => ⟨rfl, rfl⟩, by simp [Status.reset]⟩
  · obtain ⟨_, _, _, _, _, rfl⟩ := same
    obtain ⟨_, _, _, _, _, rfl⟩ := same'
    obtain ⟨⟨_, _, _, hstatus⟩, hinfo, -⟩ := State.writeLoc_keeps hwrite
    simpa [State.errorInv, hstatus, hinfo] using And.intro hclear hcode

/-- Settles O19: only a discarded WRITE sets DROPPED, and of the commands' bodies only CLEAR_STATUS writes it. -/
theorem droppedChangesOnlyByDiscardClearOrReset : Obligations.DroppedChangesOnlyByDiscardClearOrReset := by
  intro s t ht
  rcases step_effect ht with ⟨hb, hdelay, h⟩ | same | ⟨htakes, same⟩ | ⟨a, w, l, u, v, htakes, hl, same, hwrite, same'⟩
  · rcases engineStep_effect h with ⟨op, e, rfl⟩ | ⟨hp, rfl⟩ | ⟨i, hi, hp, rfl⟩
    · exact not_set_not_cleared rfl
    · exact ⟨fun _ h1 => (by cases h1), fun _ _ => .inl ⟨hb, hdelay, .inr hp⟩⟩
    · by_cases hc : i = .clearStatus
      · subst hc; exact ⟨fun _ h1 => (by cases h1), fun _ _ => .inl ⟨hb, hdelay, .inl hp⟩⟩
      · obtain ⟨⟨_, hstatus⟩, -⟩ := s.bodyOf_status hi hc
        exact not_set_not_cleared (congrArg Status.dropped hstatus)
  · obtain ⟨_, _, _, _, _, rfl⟩ := same
    exact not_set_not_cleared rfl
  · obtain ⟨_, _, _, _, _, rfl⟩ := same
    exact ⟨fun _ h1 => (by cases h1), fun _ _ => .inr htakes⟩
  · obtain ⟨_, _, _, _, _, rfl⟩ := same
    obtain ⟨_, _, _, _, _, rfl⟩ := same'
    rcases State.writeLoc_drops_or_keeps hwrite with ⟨hset, hwhy⟩ | hkept
    · exact ⟨fun _ _ => ⟨a, w, l, htakes, hl, hwhy⟩, fun _ h1 => absurd (hset.symm.trans h1) (by decide)⟩
    · exact not_set_not_cleared hkept

/-- Settles O20: of the commands' bodies only those of LOG and RUN write NF, and no WRITE does. -/
theorem nonFiniteFlagChangesOnlyByLogRunOrReset : Obligations.NonFiniteFlagChangesOnlyByLogRunOrReset := by
  intro s t ht hne
  rcases step_effect ht with ⟨hb, hdelay, h⟩ | same | ⟨htakes, same⟩ | ⟨a, w, l, u, v, -, -, same, hwrite, same'⟩
  · left
    refine ⟨hb, hdelay, ?_⟩
    rcases engineStep_effect h with ⟨op, e, rfl⟩ | ⟨hp, rfl⟩ | ⟨i, hi, hp, rfl⟩
    · exact absurd rfl hne
    · exact .inr (.inr hp)
    · by_contra hno
      refine hne (s.bodyOf_nf hi ?_ ?_) <;> rintro rfl
      · exact hno (.inl hp)
      · exact hno (.inr (.inl hp))
  · obtain ⟨_, _, _, _, _, rfl⟩ := same; exact absurd rfl hne
  · exact .inr htakes
  · obtain ⟨_, _, _, _, _, rfl⟩ := same
    obtain ⟨_, _, _, _, _, rfl⟩ := same'
    obtain ⟨⟨_, _, _, hstatus⟩, -⟩ := State.writeLoc_keeps hwrite
    exact absurd (congrArg Status.nf hstatus) hne

/-- Settles O21: BUSY is set by an acceptance and cleared by a completion or a reset. -/
theorem busyChangesOnlyByAcceptanceAndCompletion : Obligations.BusyChangesOnlyByAcceptanceAndCompletion := by
  intro s t ht
  rcases step_effect ht with ⟨hb, hdelay, h⟩ | same | ⟨htakes, same⟩ | ⟨a, w, l, u, v, htakes, hl, same, hwrite, same'⟩
  · exact ⟨fun h0 => absurd (hb.symm.trans h0) (by decide), fun _ _ => .inl hdelay⟩
  · obtain ⟨_, _, _, _, _, rfl⟩ := same
    exact not_set_not_cleared rfl
  · obtain ⟨_, _, _, _, _, rfl⟩ := same
    exact ⟨fun _ h1 => (by cases h1), fun _ _ => .inr htakes⟩
  · obtain ⟨_, _, _, _, _, rfl⟩ := same
    obtain ⟨_, _, _, _, _, rfl⟩ := same'
    rcases State.writeLoc_accepts_or_keeps hwrite with ⟨rfl, hb, -, hb', hp, hd⟩ | ⟨hb, -⟩
    · exact ⟨fun _ _ => ⟨a, w, htakes, hl, hp, hd⟩, fun _ h1 => absurd (hb'.symm.trans h1) (by decide)⟩
    · exact not_set_not_cleared hb

/-- Settles O59: the bodies cover what they describe, and outside a reset no entry loses its value. -/
theorem stepKeepsTheDescriptorInvariant : Obligations.StepKeepsTheDescriptorInvariant := by
  intro s t hinv ht
  rcases step_effect ht with ⟨-, -, h⟩ | same | ⟨-, same⟩ | ⟨a, w, l, u, v, -, -, same, hwrite, same'⟩
  · rcases engineStep_effect h with ⟨op, e, rfl⟩ | ⟨-, rfl⟩ | ⟨i, -, -, rfl⟩
    · exact hinv
    · exact State.descInv_resetOf s.params
    · exact State.descInv_bodyOf hinv i
  · obtain ⟨_, _, _, _, _, rfl⟩ := same; exact hinv
  · obtain ⟨_, _, _, _, _, rfl⟩ := same; exact State.descInv_resetOf s.params
  · obtain ⟨_, _, _, _, _, rfl⟩ := same
    obtain ⟨_, _, _, _, _, rfl⟩ := same'
    obtain ⟨-, -, -, hdescs⟩ := State.writeLoc_keeps hwrite
    exact State.descInv_of_keeps (t := v) (State.writeLoc_keepsValues hwrite) hdescs hinv

/-- Settles O22: a body writes its own descriptors only, a WRITE none, and nothing the build. -/
theorem descriptorsChangeOnlyByTheirProducers : Obligations.DescriptorsChangeOnlyByTheirProducers := by
  intro s t ht
  rcases step_effect ht with ⟨hb, hdelay, h⟩ | same | ⟨htakes, same⟩ | ⟨a, w, l, u, v, -, -, same, hwrite, same'⟩
  · rcases engineStep_effect h with ⟨op, e, rfl⟩ | ⟨hp, rfl⟩ | ⟨i, -, hp, rfl⟩
    · exact ⟨rfl, fun x _ hne => absurd rfl hne⟩
    · exact ⟨rfl, fun x _ _ => .inl ⟨hb, hdelay, .inr (.inr hp)⟩⟩
    · refine ⟨s.bodyOf_params i, fun x hx hne => .inl ⟨hb, hdelay, ?_⟩⟩
      have produced : x.1 ∈ producedDescs i := not_imp_comm.1 (s.bodyOf_keepsDescs i x.1) hne
      simpa [hp] using encode_of_mem_producedDescs x hx produced
  · obtain ⟨_, _, _, _, _, rfl⟩ := same; exact ⟨rfl, fun x _ hne => absurd rfl hne⟩
  · obtain ⟨_, _, _, _, _, rfl⟩ := same; exact ⟨rfl, fun x _ _ => .inr htakes⟩
  · obtain ⟨_, _, _, _, _, rfl⟩ := same
    obtain ⟨_, _, _, _, _, rfl⟩ := same'
    obtain ⟨-, -, hparams, hdescs⟩ := State.writeLoc_keeps hwrite
    exact ⟨hparams, fun x _ hne => absurd (hdescs x.1) hne⟩

/-- Settles O6: each register by its number; a capacity of a legal build is below 2^32. -/
theorem identityAndCapacityRegisters : Obligations.IdentityAndCapacityRegisters := by
  intro s
  refine ⟨s.hostRead_regAddr .id, s.hostRead_regAddr .version, s.hostRead_regAddr .capN, s.hostRead_regAddr .capF,
    s.hostRead_regAddr .capC, ?capFmt, fun hlegal k hk => halves_of_lt ?small, ?readOnly⟩
  case capFmt =>
    refine (s.hostRead_regAddr .capFmt).trans ?_
    cases hf : s.params.numFmt <;> simp [State.regWord, hf]
  case small =>
    obtain ⟨hn, hf, hc⟩ := capacities_le_of_legal hlegal
    simp only [List.mem_cons, List.not_mem_nil, or_false] at hk
    rcases hk with rfl | rfl | rfl <;> omega
  case readOnly =>
    simp only [List.forall_mem_cons]
    exact ⟨fun w => State.hostWrite_readOnly (r := .id) rfl, fun w => State.hostWrite_readOnly (r := .version) rfl,
      fun w => State.hostWrite_readOnly (r := .capN) rfl, fun w => State.hostWrite_readOnly (r := .capF) rfl,
      fun w => State.hostWrite_readOnly (r := .capC) rfl, fun w => State.hostWrite_readOnly (r := .capFmt) rfl,
      by simp⟩

/-- Settles O7: the bits of STATUS by `Status.getLsbD_word`, its fields by the lemmas that follow it. -/
theorem statusRegisterFields : Obligations.StatusRegisterFields := by
  intro s
  have bit := fun i hi => s.status.getLsbD_word (i := i) hi
  refine ⟨s.hostRead_regAddr .status, (bit 0 (by decide)).trans (by simp), (bit 1 (by decide)).trans (by simp),
    (bit 2 (by decide)).trans (by simp), (bit 3 (by decide)).trans (by simp), (bit 4 (by decide)).trans (by simp),
    s.status.word_reserved_low, s.status.word_errcode, s.status.word_lastop, s.status.word_reserved_high,
    fun w hw => ?set, fun w hw => ?clear, Status.word_reset⟩
  case set => exact State.hostWrite_regAddr (r := .status) (congrArg some (if_pos hw))
  case clear => exact State.hostWrite_regAddr (r := .status) (congrArg some (if_neg (by rw [hw]; decide)))

/-- Settles O9: an idle block performs the writes; with binary32 CFG_ALPHA keeps the low half. -/
theorem configurationRegisters : Obligations.ConfigurationRegisters := by
  intro s w
  refine ⟨fun hb => ?writes, s.hostRead_regAddr .cfgN, s.hostRead_regAddr .cfgF, s.hostRead_regAddr .cfgC,
    s.hostRead_regAddr .cfgAlpha⟩
  have low : w.extractLsb' 0 32 = w.setWidth 32 := (BitVec.setWidth_eq_extractLsb' (by decide)).symm
  refine ⟨State.hostWrite_regAddr (r := .cfgN) ?n, State.hostWrite_regAddr (r := .cfgF) ?f,
    State.hostWrite_regAddr (r := .cfgC) ?c, fun hf => State.hostWrite_regAddr (r := .cfgAlpha) ?alpha64,
    fun hf => State.hostWrite_regAddr (r := .cfgAlpha) ?alpha32⟩
  case n | f | c => simp [State.writeLoc, State.writeIdle, hb, low]
  case alpha64 => simp [State.writeLoc, State.writeIdle, hb, hf, truncNum]
  case alpha32 => simp [State.writeLoc, State.writeIdle, hb, hf, truncNum_binary32]

/-- Settles O10: each register by its number, and the fields of a descriptor by its bits. -/
theorem descriptorRegisterFields : Obligations.DescriptorRegisterFields := by
  intro s
  have fields : ∀ d : Desc, d.word.getLsbD 63 = d.v ∧ d.word.extractLsb' 48 15 = 0 ∧
      d.word.extractLsb' 32 16 = d.ch ∧ d.word.extractLsb' 0 32 = d.len := fun d =>
    ⟨(d.getLsbD_word (by decide)).trans (by simp), d.word_reserved, d.word_ch, d.word_len⟩
  refine ⟨s.hostRead_regAddr .cmd, s.hostRead_regAddr .errInfo, ?_⟩
  simp only [List.forall_mem_cons]
  exact ⟨⟨s.hostRead_regAddr (.desc .hann), fields _⟩, ⟨s.hostRead_regAddr (.desc .fb), fields _⟩,
    ⟨s.hostRead_regAddr (.desc .pre), fields _⟩, ⟨s.hostRead_regAddr (.desc .win), fields _⟩,
    ⟨s.hostRead_regAddr (.desc .dft), fields _⟩, ⟨s.hostRead_regAddr (.desc .amp), fields _⟩,
    ⟨s.hostRead_regAddr (.desc .mel), fields _⟩, ⟨s.hostRead_regAddr (.desc .log), fields _⟩, by simp⟩

/-- Settles O15: an idle WRITE of a sample is one memory write, and the next READ finds the word it has put there. -/
theorem writtenSampleIsReadBack : Obligations.WrittenSampleIsReadBack := by
  intro s i w hp hb hi
  have stored : (s.mem.write (Buffer.sin.addr i) (truncNum s.params.numFmt w)).read (Buffer.sin.addr i) =
      some (truncNum s.params.numFmt w) := by
    rw [Mem.read_write, if_pos rfl]
  refine ⟨_, State.hostWrite_sin hp hb hi w, Option.isSome_iff_exists.2 ⟨_, stored⟩,
    fun a ha => (Mem.read_write ..).trans (if_neg ha), rfl, rfl, fun hf => ?binary64, fun hf => ?binary32⟩
  case binary64 =>
    have kept : truncNum s.params.numFmt w = w := by rw [hf]; rfl
    exact State.hostRead_sin (select_sin hp hi) hb (stored.trans (congrArg some kept))
  case binary32 =>
    have kept : truncNum s.params.numFmt w = (w.extractLsb' 0 32).setWidth 64 := by rw [hf, truncNum_binary32]
    exact State.hostRead_sin (select_sin hp hi) hb (stored.trans (congrArg some kept))

/-- Settles O5: the reset state of the build and what each kind of reset leaves are the same block. -/
theorem resetGivesEveryResetValue : Obligations.ResetGivesEveryResetValue := by
  refine ⟨rfl, fun s t ht => ?_⟩
  have same : (State.resetOf s.params).SameBlock t := by
    simp only [List.mem_cons, List.not_mem_nil, or_false] at ht
    rcases ht with rfl | rfl | rfl | rfl <;> exact ⟨_, _, _, _, _, rfl⟩
  obtain ⟨_, _, _, _, _, rfl⟩ := same
  refine ⟨rfl, rfl, rfl, Status.word_reset, rfl, rfl, rfl, rfl, rfl, fun hf => ?_, fun hf => ?_, fun d => ?_,
    rfl, fun i => rfl, fun b i => rfl, rfl⟩
  · exact congrArg num097 hf
  · exact congrArg num097 hf
  · cases d <;> exact ⟨rfl, Desc.word_empty⟩

/-- Settles O8: a WRITE of CTRL is performed in every state. -/
theorem controlRegister : Obligations.ControlRegister := by
  intro s
  refine ⟨rfl, fun h => ?enabled, ?read, fun w => State.hostWrite_regAddr (r := .ctrl) rfl⟩
  case enabled => exact ((Bool.and_eq_true _ _).mp h).1
  case read =>
    refine (s.hostRead_regAddr .ctrl).trans ?_
    cases h : s.irqEn <;> simp [State.regWord, bitAt, h]

/-- Settles O55: the reset state is idle, without an error, its memory empty and its descriptors clear. -/
theorem resetHasTheInvariants : Obligations.ResetHasTheInvariants := by
  intro p
  refine ⟨State.commandInv_of_idle ⟨rfl, rfl⟩, ⟨fun _ => ⟨rfl, rfl⟩, fun h => (nomatch h)⟩, rfl, fun a h => (nomatch h),
    State.descInv_resetOf p, ⟨?alpha, fun a w h => (nomatch h)⟩, by decide⟩
  case alpha =>
    show truncNum p.numFmt (num097 p.numFmt) = num097 p.numFmt
    cases p.numFmt <;> rfl

end Sys2Proof.Machine
end

section
/-! PROOFS. The host bus: the byte lanes of a word (20_memory.md R73), the address map (R74 to R77), what a READ and a
WRITE do at each kind of location (R78 to R85), and that no host operation but a reset disturbs a pending command (R84,
R89). -/

namespace Sys2Proof.Machine

/-! ### Byte lanes -/

/-- A word is its lowest lane below the rest of it. -/
theorem shiftRight_shiftLeft_or_lane (w : Word) : (w >>> 8) <<< 8 ||| (Word.lane w 0).setWidth 64 = w := by
  apply BitVec.eq_of_getLsbD_eq
  intro i hi
  by_cases h : i < 8
  · simp [Word.lane, hi, h]
  · simp [Word.lane, hi, h, show 8 + (i - 8) = i by omega]

theorem lane_succ (w : Word) (k : Nat) : Word.lane w (k + 1) = Word.lane (w >>> 8) k := by
  apply BitVec.eq_of_getLsbD_eq
  intro i hi
  simp [Word.lane, show 8 * (k + 1) + i = 8 + (8 * k + i) by omega]

/-- The first n lanes of a word carry it, if no bit is set above them. -/
theorem wordOfLanes_lanes (n : Nat) : ∀ w : Word, w.toNat < 2 ^ (8 * n) →
    wordOfLanes ((List.range n).map (Word.lane w)) = w := by
  induction n with
  | zero =>
    intro w hw
    exact (BitVec.eq_of_toNat_eq (Nat.lt_one_iff.1 hw)).symm
  | succ n ih =>
    intro w hw
    have rest : (w >>> 8).toNat < 2 ^ (8 * n) := by
      rw [BitVec.toNat_ushiftRight, Nat.shiftRight_eq_div_pow]
      exact Nat.div_lt_of_lt_mul (by rwa [← Nat.pow_add, Nat.add_comm 8])
    have lanes : (Word.lane w ∘ Nat.succ) = Word.lane (w >>> 8) := funext (lane_succ w)
    rw [List.range_succ_eq_map, List.map_cons, List.map_map, lanes]
    calc wordOfLanes (Word.lane w 0 :: (List.range n).map (Word.lane (w >>> 8)))
        = wordOfLanes ((List.range n).map (Word.lane (w >>> 8))) <<< 8 ||| (Word.lane w 0).setWidth 64 := rfl
      _ = (w >>> 8) <<< 8 ||| (Word.lane w 0).setWidth 64 := by rw [ih _ rest]
      _ = w := shiftRight_shiftLeft_or_lane w

/-! ### The address map -/

theorem Reg.number_of_ofNumber {k : Nat} {r : Reg} (h : Reg.ofNumber k = some r) : r.number = k := by
  simpa using List.find?_some h

theorem Buffer.region_of_ofRegion {r : Nat} {b : Buffer} (h : Buffer.ofRegion r = some b) : b.region = r := by
  unfold Buffer.ofRegion at h
  split at h
  case h_13 =>
    split at h
    · obtain rfl := Option.some.inj h; simp only [Buffer.region]; omega
    · cases h
  all_goals obtain rfl := Option.some.inj h; rfl

/-- What an address selects stands at that address (20_memory.md R77). -/
theorem select_cases {p : Params} {a : Addr} {l : Loc} (h : select p a = some l) :
    (∃ r, l = .reg r ∧ a.toNat = r.number) ∨
    (∃ b i, l = .entry b i ∧ a.toNat = b.addr i ∧ i < b.capacity p) := by
  have split_addr : a.toNat = Addr.region a * 2 ^ 24 + Addr.offset a := (Nat.div_add_mod' ..).symm
  unfold select at h
  split at h
  next h0 =>
    obtain ⟨r, hr, rfl⟩ := Option.map_eq_some_iff.1 h
    refine .inl ⟨r, rfl, ?_⟩
    rw [Reg.number_of_ofNumber hr, split_addr, h0, Nat.zero_mul, Nat.zero_add]
  next =>
    split at h
    next b hb =>
      split at h
      next hlt =>
        obtain rfl := Option.some.inj h
        refine .inr ⟨b, _, rfl, ?_, hlt⟩
        rw [split_addr, Buffer.addr, Buffer.base, Buffer.region_of_ofRegion hb]
      next => cases h
    next => cases h

theorem select_entry_lt {p : Params} {a : Addr} {b : Buffer} {i : Nat} (h : select p a = some (.entry b i)) :
    i < b.capacity p := by
  rcases select_cases h with ⟨r, hr, -⟩ | ⟨b', i', he, -, hlt⟩
  · cases hr
  · cases he; exact hlt

/-- In a legal build every entry has an offset below 2^24 and lies in a region from 1 to 255 (00_scope.md R6). -/
theorem entry_bounds {p : Params} (hp : p.legal = true) {b : Buffer} {i : Nat} (hi : i < b.capacity p) :
    i < 2 ^ 24 ∧ 0 < b.region ∧ b.region < 2 ^ 8 := by
  obtain ⟨hn, hf, hc⟩ := capacities_le_of_legal hp
  cases b with
  | fbw c =>
    simp only [Buffer.capacity, nyqMax] at hi
    split at hi
    · simp only [Buffer.region]; omega
    · omega
  | _ => simp only [Buffer.capacity, Buffer.region] at *; omega

theorem Buffer.ofRegion_region (b : Buffer) : Buffer.ofRegion b.region = some b := by
  cases b with
  | fbw c =>
    rw [show (Buffer.fbw c).region = 0x80 + c from rfl, Buffer.ofRegion, if_pos (Nat.le_add_right ..),
      Nat.add_sub_cancel_left]
    all_goals omega
  | _ => rfl

/-- The address of an entry selects it (20_memory.md R75). -/
theorem select_entryAddr {p : Params} (hp : p.legal = true) {b : Buffer} {i : Nat} (hi : i < b.capacity p) :
    b.addr i < 2 ^ 32 ∧ select p (BitVec.ofNat 32 (b.addr i)) = some (.entry b i) := by
  obtain ⟨hoff, hpos, hreg⟩ := entry_bounds hp hi
  have addr_eq : b.addr i = b.region * 2 ^ 24 + i := by rw [Buffer.addr, Buffer.base]
  have lt : b.addr i < 2 ^ 32 := by omega
  have toNat : (BitVec.ofNat 32 (b.addr i)).toNat = b.addr i := by rw [BitVec.toNat_ofNat, Nat.mod_eq_of_lt lt]
  have region : Addr.region (BitVec.ofNat 32 (b.addr i)) = b.region := by rw [Addr.region, toNat]; omega
  have offset : Addr.offset (BitVec.ofNat 32 (b.addr i)) = i := by rw [Addr.offset, toNat]; omega
  refine ⟨lt, ?_⟩
  simp [select, region, offset, Buffer.ofRegion_region, hi, Nat.pos_iff_ne_zero.1 hpos]

/-! ### READ -/

theorem State.hostRead_of_none {s : State} {a : Addr} (h : select s.params a = none) : s.hostRead a = s.busError := by
  simp [State.hostRead, h]

/-- A READ of a selected location answers its word, or where it is UNSPECIFIED a fresh free word. -/
theorem State.hostRead_of_select {s : State} {a : Addr} {l : Loc} (h : select s.params a = some l) :
    (∀ v, s.readLoc l = some v → s.hostRead a = s.reply ⟨true, some v⟩) ∧
    (s.readLoc l = none → s.hostRead a =
      { s.reply ⟨true, some (Config.freeWord s.draws)⟩ with draws := s.draws + 1 }) := by
  constructor
  · intro v hv; simp [State.hostRead, h, hv]
  · intro hv; simp [State.hostRead, h, hv]

theorem State.readLoc_entry_of_readable {s : State} {b : Buffer} {i : Nat} (hw : s.inWriteSet b i = false)
    (hd : s.withinDesc b i = true) : s.readLoc (.entry b i) = s.entry b i := by
  simp [State.readLoc, hw, hd]

theorem State.readLoc_entry_unspecified {s : State} {b : Buffer} {i : Nat}
    (h : s.entry b i = none ∨ s.inWriteSet b i = true ∨ s.withinDesc b i = false) :
    s.readLoc (.entry b i) = none := by
  rcases h with h | h | h <;> simp [State.readLoc, h]

/-! ### WRITE -/

/-- A WRITE of a location that takes none is a bus error. -/
theorem State.hostWrite_of_none {s : State} {a : Addr} {w : Word}
    (h : ∀ l, select s.params a = some l → s.writeLoc l w = none) : s.hostWrite a w = s.busError := by
  rcases s.hostWrite_cases a w with h' | ⟨l, t, hl, ht, -⟩
  · exact h'
  · rw [h l hl] at ht; cases ht

theorem State.writeLoc_replies {s t : State} {l : Loc} {w : Word} (h : s.writeLoc l w = some t) :
    t.replies = s.replies := by
  rcases State.writeLoc_cases h with ⟨-, rfl⟩ | ⟨-, rfl | rfl⟩ | ⟨-, rfl⟩ | ⟨-, rfl, -⟩ | ⟨-, hidle⟩
  · rcases s.accept_cases w with ⟨h, -⟩ | ⟨-, -, _, _, _, h⟩
    · rw [h, State.drop_replies]
    · rw [h]
  iterate 4 rfl
  rcases hidle with ⟨-, rfl⟩ | ⟨-, rfl⟩ | ⟨-, rfl⟩ | ⟨-, rfl⟩ | ⟨_, -, rfl⟩ <;> rfl

/-- A WRITE of a location that takes it is answered OKAY. -/
theorem State.hostWrite_replies {s t : State} {a : Addr} {l : Loc} {w : Word} (hl : select s.params a = some l)
    (hw : s.writeLoc l w = some t) : (s.hostWrite a w).replies = ⟨true, none⟩ :: s.replies := by
  rw [State.hostWrite_of_some hl hw, State.reply_replies, State.writeLoc_replies hw]

/-- While a command is pending, a WRITE of CMD, the configuration or a sample is discarded (20_memory.md R84). -/
theorem State.writeLoc_busy {s : State} {l : Loc} (w : Word) (hb : s.status.busy = true)
    (hl : l ∈ [Loc.reg .cmd, .reg .cfgN, .reg .cfgF, .reg .cfgC, .reg .cfgAlpha] ∨ ∃ i, l = .entry .sin i) :
    s.writeLoc l w = some s.drop := by
  have idle : ∀ t, s.writeIdle t = s.drop := fun t => by simp [State.writeIdle, hb]
  have accept : s.accept w = s.drop := by simp [State.accept, hb]
  simp only [List.mem_cons, List.not_mem_nil, or_false] at hl
  rcases hl with (rfl | rfl | rfl | rfl | rfl) | ⟨i, rfl⟩
  · exact congrArg some accept
  all_goals exact congrArg some (idle _)

/-! ### What a pending command cannot see -/

/-- The two states differ at most in what no completion reads: DONE, DROPPED, IRQ_EN and the model's own fields. -/
def State.SameInputs (s t : State) : Prop :=
  ∃ done dropped irq ev r l d n,
    t = { s with
      status := { s.status with done := done, dropped := dropped }
      irqEn := irq, events := ev, replies := r, latency := l, delay := d, draws := n }

theorem State.SameInputs.trans_sameBlock {s t u : State} (h : s.SameInputs t) (h' : t.SameBlock u) :
    s.SameInputs u := by
  obtain ⟨_, _, _, _, _, _, _, _, rfl⟩ := h
  obtain ⟨_, _, _, _, _, rfl⟩ := h'
  exact ⟨_, _, _, _, _, _, _, _, rfl⟩

theorem State.SameBlock.sameInputs {s t : State} (h : s.SameBlock t) : s.SameInputs t := by
  obtain ⟨_, _, _, _, _, rfl⟩ := h
  exact ⟨_, _, _, _, _, _, _, _, rfl⟩

theorem State.sameInputs_drop (s : State) : s.SameInputs s.drop := ⟨_, _, _, _, _, _, _, _, rfl⟩

/-- While a command is pending, no WRITE reaches what its completion reads. -/
theorem State.writeLoc_busy_sameInputs {s t : State} {l : Loc} {w : Word} (hb : s.status.busy = true)
    (h : s.writeLoc l w = some t) : s.SameInputs t := by
  rcases State.writeLoc_cases h with ⟨-, rfl⟩ | ⟨-, rfl | rfl⟩ | ⟨-, rfl⟩ | ⟨-, rfl, -⟩ | ⟨hidle, -⟩
  · rcases s.accept_cases w with ⟨h, -⟩ | ⟨hidle, -⟩
    · rw [h]; exact s.sameInputs_drop
    · exact absurd (hb.symm.trans hidle) (by decide)
  iterate 3 exact ⟨_, _, _, _, _, _, _, _, rfl⟩
  · exact s.sameInputs_drop
  · exact absurd (hb.symm.trans hidle) (by decide)

theorem State.perform_busy_sameInputs {s : State} {e : HostOp} (hb : s.status.busy = true) (hpin : e ≠ .resetPin)
    (hflight : e ≠ .resetInFlight) : s.SameInputs (s.perform e) := by
  rcases s.perform_cases e with same | ⟨rfl | rfl, -⟩ | ⟨a, w, l, u, -, -, hwrite, same⟩
  · exact same.sameInputs
  · exact absurd rfl hpin
  · exact absurd rfl hflight
  · exact (State.writeLoc_busy_sameInputs hb hwrite).trans_sameBlock same

section
variable {s t : State} (h : s.SameInputs t)
include h

theorem State.SameInputs.checkOf (i : Instr) : t.checkOf i = s.checkOf i := by
  obtain ⟨_, _, _, _, _, _, _, _, rfl⟩ := h
  cases i <;> rfl

theorem State.SameInputs.errorEntry (op : BitVec 8) (e : CmdError) :
    (s.errorEntry op e).SameInputs (t.errorEntry op e) := by
  obtain ⟨_, _, _, _, _, _, _, _, rfl⟩ := h
  exact ⟨_, _, _, _, _, _, _, _, rfl⟩

theorem State.SameInputs.finish (op : BitVec 8) : (s.finish op).SameInputs (t.finish op) := by
  obtain ⟨_, _, _, _, _, _, _, _, rfl⟩ := h
  exact ⟨_, _, _, _, _, _, _, _, rfl⟩

/-- The writes of a command's pseudocode do not depend on what no completion reads. -/
theorem State.SameInputs.bodyOf (i : Instr) : (s.bodyOf i).SameInputs (t.bodyOf i) := by
  obtain ⟨_, _, _, _, _, _, _, _, rfl⟩ := h
  cases i <;> exact ⟨_, _, _, _, _, _, _, _, rfl⟩

/-- The completion of a command does not depend on them either. -/
theorem State.SameInputs.exec {i : Instr} {s' : State} (hs : exec i s = .next s') :
    ∃ t', Machine.exec i t = .next t' ∧ s'.SameInputs t' := by
  rcases exec_cases hs with ⟨rfl, rfl⟩ | ⟨hi, e, hcheck, rfl⟩ | ⟨hi, hcheck, rfl⟩
  · exact ⟨_, exec_softReset t, h.bodyOf .softReset⟩
  · rw [← h.checkOf] at hcheck
    exact ⟨_, (exec_eq_complete hi t).trans (State.complete_of_error hcheck), h.errorEntry ..⟩
  · rw [← h.checkOf] at hcheck
    exact ⟨_, (exec_eq_complete hi t).trans (State.complete_of_none hcheck), (h.bodyOf i).finish _⟩

end

end Sys2Proof.Machine
end

section
/-! PROOFS. What every step makes of the memory: it is emptied, or it is filled at entries of the address map
(20_memory.md R75, R77) with words of the number format (R72). -/

namespace Sys2Proof.Machine

/-! ### Results are words of their format (20_memory.md R72) -/

section
variable (f : NumFmt) (a b : Word)

@[simp] theorem truncNum_fadd : truncNum f (fadd f a b) = fadd f a b := by
  unfold fadd
  split
  case h_6 => dsimp only; split <;> simp [roundInt]
  case h_3 => split <;> simp
  all_goals simp

@[simp] theorem truncNum_fsub : truncNum f (fsub f a b) = fsub f a b := truncNum_fadd f a _

@[simp] theorem truncNum_fmul : truncNum f (fmul f a b) = fmul f a b := by
  unfold fmul
  split
  case h_4 => split <;> simp
  case h_5 => split <;> simp
  all_goals simp

@[simp] theorem truncNum_fdiv : truncNum f (fdiv f a b) = fdiv f a b := by
  unfold fdiv
  split
  case h_6 =>
    split
    · split <;> simp
    · simp
  all_goals simp

@[simp] theorem truncNum_fsqrt : truncNum f (fsqrt f a) = fsqrt f a := by
  unfold fsqrt
  split
  case h_1 => simp
  case h_2 => split <;> simp
  case h_3 =>
    split
    · simp
    · split <;> simp

@[simp] theorem truncNum_fsum (n : Nat) (t : Nat → Word) : truncNum f (fsum f n t) = fsum f n t := by
  cases n with
  | zero => exact truncNum_zeroNum f false
  | succ n => exact truncNum_fadd f _ _

@[simp] theorem truncNum_weight (s m e i : Nat) : truncNum f (weight f s m e i) = weight f s m e i := by
  unfold weight
  split
  · simp
  · split
    · simp
    · split <;> simp

/-- An index below 2^32 is a word of either format. -/
theorem truncNum_ofNat {k : Nat} (h : k < 2 ^ 32) : truncNum f (BitVec.ofNat 64 k) = BitVec.ofNat 64 k := by
  cases f with
  | binary32 => rw [truncNum_binary32_iff]; exact (Nat.mod_le _ _).trans_lt h
  | binary64 => rfl

end

/-! The indices of the filter bank are at most NYQ, which a 32-bit F bounds. -/

theorem State.nyq_lt (s : State) : s.nyq < 2 ^ 32 := (Nat.div_le_self _ _).trans_lt s.cfgF.isLt

theorem iCenter_le (p : Params) (nyq c k : Nat) : iCenter p nyq c k ≤ nyq := floorIdx_le ..

theorem iStart_le (p : Params) (nyq c k : Nat) : iStart p nyq c k ≤ nyq := by
  unfold iStart
  split
  · exact iCenter_le ..
  · exact Nat.zero_le _

theorem iEnd_le (p : Params) (nyq c k : Nat) : iEnd p nyq c k ≤ nyq := by
  unfold iEnd
  split
  · exact iCenter_le ..
  · exact Nat.le_refl _

/-! ### Fills within the address map -/

/-- Every entry that holds a value is an entry of the address map: what `State.mapInv` says of the memory. -/
def Mem.InMap (p : Params) (m : Mem) : Prop :=
  ∀ a, (m.read a).isSome = true → ∃ b i, a = Buffer.addr b i ∧ i < b.capacity p

/-- Every word the memory holds is of the format. -/
def Mem.InFormat (f : NumFmt) (m : Mem) : Prop := ∀ a w, m.read a = some w → truncNum f w = w

/-- The second memory is the first after some fills, each of entries of the address map, and with words of the format
where the memory before held only such words. -/
inductive Mem.Fills (p : Params) : Mem → Mem → Prop where
  | refl (m : Mem) : Mem.Fills p m m
  | fillFrom {m t : Mem} (b : Buffer) (j : Nat) {n : Nat} {v : Nat → Word} (h : Mem.Fills p m t)
      (within : n + j ≤ b.capacity p)
      (format : t.InFormat p.numFmt → ∀ i, i < n → truncNum p.numFmt (v i) = v i) :
      Mem.Fills p m (t.fill (b.addr j) n v)

theorem Mem.Fills.trans {p : Params} {m t u : Mem} (h : m.Fills p t) (h' : t.Fills p u) : m.Fills p u := by
  induction h' with
  | refl => exact h
  | fillFrom b j _ within format ih => exact ih.fillFrom b j within format

theorem Mem.Fills.wf {p : Params} {m t : Mem} (h : m.Fills p t) (hm : m.wf = true) : t.wf = true := by
  induction h with
  | refl => exact hm
  | fillFrom b j _ _ _ ih => exact Mem.wf_fill ih ..

theorem Mem.Fills.inMap {p : Params} {m t : Mem} (h : m.Fills p t) (hm : m.InMap p) : t.InMap p := by
  induction h with
  | refl => exact hm
  | @fillFrom t b j n v _ within _ ih =>
    intro a ha
    rw [Mem.read_fill] at ha
    split at ha
    next inside =>
      simp only [Buffer.addr] at inside
      exact ⟨b, a - b.base, by simp only [Buffer.addr]; omega, by omega⟩
    next => exact ih a ha

theorem Mem.Fills.inFormat {p : Params} {m t : Mem} (h : m.Fills p t) (hm : m.InFormat p.numFmt) :
    t.InFormat p.numFmt := by
  induction h with
  | refl => exact hm
  | fillFrom b j _ _ format ih =>
    intro a w ha
    rw [Mem.read_fill] at ha
    split at ha
    next inside =>
      obtain rfl := Option.some.inj ha
      exact format ih _ (by omega)
    next => exact ih a w ha

theorem Buffer.addr_zero (b : Buffer) : b.addr 0 = b.base := Nat.add_zero _

/-- A buffer filled from its first entry on. -/
theorem Mem.Fills.fill {p : Params} {m t : Mem} {n : Nat} {v : Nat → Word} (h : m.Fills p t) (b : Buffer)
    (within : n ≤ b.capacity p)
    (format : t.InFormat p.numFmt → ∀ i, i < n → truncNum p.numFmt (v i) = v i) : m.Fills p (t.fill b.base n v) := by
  rw [← Buffer.addr_zero]; exact h.fillFrom b 0 within format

/-- Rows of the weight matrix, filled one after the other. -/
theorem Mem.Fills.fillRows {p : Params} {m t : Mem} {n : Nat} {v : Nat → Nat → Word} (h : m.Fills p t)
    (hn : n ≤ nyqMax p) (format : ∀ k i, truncNum p.numFmt (v k i) = v k i) (c : Nat) (hc : c ≤ p.cMax) :
    m.Fills p (t.fillRows n v c) := by
  induction c with
  | zero => exact h
  | succ c ih =>
    have within : n ≤ (Buffer.fbw c).capacity p := by rwa [Buffer.capacity, if_pos (Nat.lt_of_succ_le hc)]
    exact (ih (by omega)).fill (.fbw c) within fun _ i _ => format c i

theorem Mem.Fills.isSome {p : Params} {m t : Mem} (h : m.Fills p t) {a : Nat} (ha : (m.read a).isSome = true) :
    (t.read a).isSome = true := by
  induction h with
  | refl => exact ha
  | fillFrom _ _ _ _ _ ih => exact Mem.isSome_read_fill ih

/-! ### The memory after a command's body -/

/-- `t` has the build and the configuration of `s`, and the memory of `s` after some fills. -/
def State.FillsTo (s t : State) : Prop := s.keepsInputs t ∧ s.mem.Fills s.params t.mem

section
variable {s t : State} (h : s.FillsTo t)
include h

theorem State.FillsTo.trans {u : State} (h' : t.FillsTo u) : s.FillsTo u := by
  obtain ⟨⟨hp, hirq, hn, hf, hc, ha⟩, hm⟩ := h
  obtain ⟨⟨hp', hirq', hn', hf', hc', ha'⟩, hm'⟩ := h'
  exact ⟨⟨hp'.trans hp, hirq'.trans hirq, hn'.trans hn, hf'.trans hf, hc'.trans hc, ha'.trans ha⟩,
    hm.trans (hp ▸ hm')⟩

theorem State.FillsTo.n_le (hn : s.n ≤ s.params.nMax) : t.n ≤ t.params.nMax := by
  obtain ⟨⟨hp, -, hn', -⟩, -⟩ := h
  rwa [State.n, hp, hn']

theorem State.FillsTo.f_le (hf : s.f ≤ s.params.fMax) : t.f ≤ t.params.fMax := by
  obtain ⟨⟨hp, -, -, hf', -⟩, -⟩ := h
  rwa [State.f, hp, hf']

theorem State.FillsTo.c_le (hc : s.c ≤ s.params.cMax) : t.c ≤ t.params.cMax := by
  obtain ⟨⟨hp, -, -, -, hc', -⟩, -⟩ := h
  rwa [State.c, hp, hc']

theorem State.FillsTo.samplesWritten (hsin : s.samplesWritten) : t.samplesWritten := by
  obtain ⟨⟨-, -, hn, -⟩, hm⟩ := h
  intro i hi
  rw [State.n, hn] at hi
  exact hm.isSome (hsin i hi)

end

/-- A body that is one fill of a buffer. -/
theorem State.fillsTo_of_fill {s t : State} {n : Nat} {v : Nat → Word} (hin : s.keepsInputs t) (b : Buffer)
    (hm : t.mem = s.mem.fill b.base n v) (within : n ≤ b.capacity s.params)
    (format : ∀ i, truncNum s.params.numFmt (v i) = v i) : s.FillsTo t :=
  ⟨hin, hm ▸ (Mem.Fills.refl _).fill b within fun _ i _ => format i⟩

section
variable (s : State)

theorem State.errorEntry_fillsTo (op : BitVec 8) (e : CmdError) : s.FillsTo (s.errorEntry op e) :=
  ⟨⟨rfl, rfl, rfl, rfl, rfl, rfl⟩, .refl _⟩

theorem State.writeHann_fillsTo (hn : s.n ≤ s.params.nMax) : s.FillsTo s.writeHann :=
  State.fillsTo_of_fill ⟨rfl, rfl, rfl, rfl, rfl, rfl⟩ .hann s.writeHann_mem hn fun _ => truncNum_fsub ..

theorem State.writeWindow_fillsTo (hn : s.n ≤ s.params.nMax) : s.FillsTo s.writeWindow :=
  State.fillsTo_of_fill ⟨rfl, rfl, rfl, rfl, rfl, rfl⟩ .win s.writeWindow_mem hn fun _ => truncNum_fmul ..

theorem State.writeMag_fillsTo (hf : s.f ≤ s.params.fMax) : s.FillsTo s.writeMag :=
  State.fillsTo_of_fill ⟨rfl, rfl, rfl, rfl, rfl, rfl⟩ .amp s.writeMag_mem hf fun _ => truncNum_fsqrt ..

theorem State.writeMelfb_fillsTo (hc : s.c ≤ s.params.cMax) : s.FillsTo s.writeMelfb :=
  State.fillsTo_of_fill ⟨rfl, rfl, rfl, rfl, rfl, rfl⟩ .mel s.writeMelfb_mem hc fun _ => truncNum_fsum ..

theorem State.writeLog_fillsTo (hc : s.c ≤ s.params.cMax) : s.FillsTo s.writeLog :=
  State.fillsTo_of_fill ⟨rfl, rfl, rfl, rfl, rfl, rfl⟩ .logmel s.writeLog_mem hc fun _ => truncNum_fmul ..

theorem State.writeDft_fillsTo (hf : s.f ≤ s.params.fMax) : s.FillsTo s.writeDft := by
  refine ⟨⟨rfl, rfl, rfl, rfl, rfl, rfl⟩, ?_⟩
  rw [State.writeDft_mem]
  exact ((Mem.Fills.refl _).fill .re hf fun _ _ _ => truncNum_fsum ..).fill .im hf fun _ _ _ => truncNum_fsum ..

/-- PRE[0] copies a sample, which has been written. -/
theorem State.writePreemph_fillsTo (hn : s.n ≤ s.params.nMax) (hsin : s.samplesWritten) :
    s.FillsTo s.writePreemph := by
  refine ⟨⟨rfl, rfl, rfl, rfl, rfl, rfl⟩, ?_⟩
  rw [State.writePreemph_mem]
  refine (Mem.Fills.refl _).fill .pre hn fun format i hi => ?_
  unfold preemphValue
  split
  next h0 =>
    subst h0
    obtain ⟨x, hx⟩ := Option.isSome_iff_exists.1 (hsin 0 hi)
    rw [State.operand_of_entry hx]
    exact format _ _ hx
  next => exact truncNum_fsub ..

theorem State.writeFb_fillsTo (hf : s.f ≤ s.params.fMax) (hc : s.c ≤ s.params.cMax) : s.FillsTo s.writeFb := by
  refine ⟨⟨s.writeFb_params, s.writeFb_irqEn, s.writeFb_cfgN, s.writeFb_cfgF, s.writeFb_cfgC, s.writeFb_cfgAlpha⟩, ?_⟩
  have index : ∀ k, k ≤ s.nyq → truncNum s.params.numFmt (BitVec.ofNat 64 k) = BitVec.ofNat 64 k :=
    fun k hk => truncNum_ofNat _ (hk.trans_lt s.nyq_lt)
  have starts := (Mem.Fills.refl (p := s.params) s.mem).fill .fbIstart hc fun _ k _ =>
    index _ (iStart_le s.params s.nyq s.c k)
  have centers := starts.fill .fbIcenter hc fun _ k _ => index _ (iCenter_le s.params s.nyq s.c k)
  have ends := centers.fill .fbIend hc fun _ k _ => index _ (iEnd_le s.params s.nyq s.c k)
  rw [State.writeFb_mem]
  exact ends.fillRows (Nat.div_le_div_right hf) (fun _ _ => truncNum_weight ..) s.c hc

/-- Each of RUN's bodies finds the configuration and the samples of the state before RUN. -/
theorem State.writeRun_fillsTo (hn : s.n ≤ s.params.nMax) (hf : s.f ≤ s.params.fMax) (hc : s.c ≤ s.params.cMax)
    (hsin : s.samplesWritten) : s.FillsTo s.writeRun := by
  have hann := s.writeHann_fillsTo hn
  have fb := hann.trans (State.writeFb_fillsTo _ (hann.f_le hf) (hann.c_le hc))
  have pre := fb.trans (State.writePreemph_fillsTo _ (fb.n_le hn) (fb.samplesWritten hsin))
  have win := pre.trans (State.writeWindow_fillsTo _ (pre.n_le hn))
  have dft := win.trans (State.writeDft_fillsTo _ (win.f_le hf))
  have amp := dft.trans (State.writeMag_fillsTo _ (dft.f_le hf))
  have mel := amp.trans (State.writeMelfb_fillsTo _ (amp.c_le hc))
  exact mel.trans (State.writeLog_fillsTo _ (mel.c_le hc))

/-- A command whose checks pass fills entries of the map (60_exceptions.md R202). -/
theorem State.bodyOf_fillsTo {i : Instr} (hi : i ≠ .softReset) (h : s.checkOf i = none) :
    s.FillsTo (s.bodyOf i) := by
  cases i with
  | nop | clearStatus => exact ⟨⟨rfl, rfl, rfl, rfl, rfl, rfl⟩, .refl _⟩
  | softReset => exact absurd rfl hi
  | buildHann => exact s.writeHann_fillsTo (State.checkN_eq_none.1 h).2
  | buildFb =>
    obtain ⟨hf, hc⟩ := Option.or_eq_none_iff.1 h
    exact s.writeFb_fillsTo (State.checkF_eq_none.1 hf).2 (State.checkC_eq_none.1 hc).2
  | preemph =>
    obtain ⟨hn, hsin⟩ := Option.or_eq_none_iff.1 h
    exact s.writePreemph_fillsTo (State.checkN_eq_none.1 hn).2 (State.checkSin_eq_none.1 hsin)
  | window => exact s.writeWindow_fillsTo (State.checkN_eq_none.1 (Option.or_eq_none_iff.1 h).1).2
  | dft => exact s.writeDft_fillsTo (State.checkF_eq_none.1 (Option.or_eq_none_iff.1 h).1).2
  | mag => exact s.writeMag_fillsTo (State.checkF_eq_none.1 (Option.or_eq_none_iff.1 h).1).2
  | melfb =>
    obtain ⟨-, h⟩ := Option.or_eq_none_iff.1 h
    exact s.writeMelfb_fillsTo (State.checkC_eq_none.1 (Option.or_eq_none_iff.1 h).1).2
  | log => exact s.writeLog_fillsTo (State.checkC_eq_none.1 (Option.or_eq_none_iff.1 h).1).2
  | run =>
    obtain ⟨hn, h⟩ := Option.or_eq_none_iff.1 h
    obtain ⟨hf, h⟩ := Option.or_eq_none_iff.1 h
    obtain ⟨hc, hsin⟩ := Option.or_eq_none_iff.1 h
    exact s.writeRun_fillsTo (State.checkN_eq_none.1 hn).2 (State.checkF_eq_none.1 hf).2
      (State.checkC_eq_none.1 hc).2 (State.checkSin_eq_none.1 hsin)

end

/-! ### The memory after a step -/

/-- A WRITE fills at most the entry of the sample it selects. -/
theorem State.writeLoc_fills {s t : State} {a : Addr} {l : Loc} {w : Word} (h : s.writeLoc l w = some t)
    (hl : select s.params a = some l) : s.mem.Fills s.params t.mem := by
  rcases State.writeLoc_cases h with ⟨-, rfl⟩ | ⟨-, rfl | rfl⟩ | ⟨-, rfl⟩ | ⟨-, rfl, -⟩ | ⟨-, hidle⟩
  · rcases s.accept_cases w with ⟨h, -⟩ | ⟨-, -, _, _, _, h⟩ <;> (rw [h]; exact .refl _)
  iterate 4 exact .refl _
  rcases hidle with ⟨-, rfl⟩ | ⟨-, rfl⟩ | ⟨-, rfl⟩ | ⟨-, rfl⟩ | ⟨i, rfl, rfl⟩
  iterate 4 exact .refl _
  exact (Mem.Fills.refl _).fillFrom .sin i (Nat.one_add_le_iff.2 (select_entry_lt hl)) fun _ _ _ => truncNum_truncNum ..

/-- A completion resets the block, or fills entries of the map and leaves the configuration. -/
theorem engineStep_fillsTo {s t : State} (h : engineStep s = .next t) : t = s.toReset ∨ s.FillsTo t := by
  obtain ⟨w, -, ⟨-, -, rfl⟩ | ⟨i, -, hexec⟩⟩ := engineStep_cases h
  · exact .inr (s.errorEntry_fillsTo ..)
  · rcases exec_cases hexec with ⟨-, rfl⟩ | ⟨-, e, -, rfl⟩ | ⟨hi, hcheck, rfl⟩
    · exact .inl rfl
    · exact .inr (s.errorEntry_fillsTo ..)
    · obtain ⟨inputs, fills⟩ := s.bodyOf_fillsTo hi hcheck
      exact .inr ⟨inputs, fills⟩

/-- What a step makes of the memory: a reset empties it, and everything else fills entries of the map. -/
theorem step_mem {s t : State} (h : step s = .next t) : t.mem = [] ∨ s.mem.Fills s.params t.mem := by
  rcases step_effect h with ⟨-, -, h⟩ | same | ⟨-, same⟩ | ⟨a, w, l, u, v, -, hl, same, hwrite, same'⟩
  · rcases engineStep_fillsTo h with rfl | ⟨-, fills⟩
    · exact .inl rfl
    · exact .inr fills
  · obtain ⟨_, _, _, _, _, rfl⟩ := same; exact .inr (.refl _)
  · obtain ⟨_, _, _, _, _, rfl⟩ := same; exact .inl rfl
  · obtain ⟨_, _, _, _, _, rfl⟩ := same
    obtain ⟨_, _, _, _, _, rfl⟩ := same'
    have fills := State.writeLoc_fills hwrite hl
    exact .inr fills

/-! ### CFG_ALPHA after a step -/

theorem State.writeLoc_cfgAlpha {s t : State} {l : Loc} {w : Word} (h : s.writeLoc l w = some t) :
    t.cfgAlpha = s.cfgAlpha ∨ t.cfgAlpha = truncNum s.params.numFmt w := by
  rcases State.writeLoc_cases h with ⟨-, rfl⟩ | ⟨-, rfl | rfl⟩ | ⟨-, rfl⟩ | ⟨-, rfl, -⟩ | ⟨-, hidle⟩
  · rcases s.accept_cases w with ⟨h, -⟩ | ⟨-, -, _, _, _, h⟩ <;> (rw [h]; exact .inl rfl)
  iterate 4 exact .inl rfl
  rcases hidle with ⟨-, rfl⟩ | ⟨-, rfl⟩ | ⟨-, rfl⟩ | ⟨-, rfl⟩ | ⟨_, -, rfl⟩
  iterate 3 exact .inl rfl
  · exact .inr rfl
  · exact .inl rfl

/-- CFG_ALPHA after a step is as before, the reset value, or a written word cut to the format (20_memory.md R83). -/
theorem step_cfgAlpha {s t : State} (h : step s = .next t) :
    t.cfgAlpha = s.cfgAlpha ∨ t.cfgAlpha = num097 s.params.numFmt ∨
      ∃ w, t.cfgAlpha = truncNum s.params.numFmt w := by
  rcases step_effect h with ⟨-, -, h⟩ | same | ⟨-, same⟩ | ⟨a, w, l, u, v, -, -, same, hwrite, same'⟩
  · rcases engineStep_fillsTo h with rfl | ⟨⟨-, -, -, -, -, halpha⟩, -⟩
    · exact .inr (.inl rfl)
    · exact .inl halpha
  · obtain ⟨_, _, _, _, _, rfl⟩ := same; exact .inl rfl
  · obtain ⟨_, _, _, _, _, rfl⟩ := same; exact .inr (.inl rfl)
  · obtain ⟨_, _, _, _, _, rfl⟩ := same
    obtain ⟨_, _, _, _, _, rfl⟩ := same'
    exact (State.writeLoc_cfgAlpha hwrite).imp_right fun h => .inr ⟨w, h⟩

theorem truncNum_num097 (f : NumFmt) : truncNum f (num097 f) = num097 f := by cases f <;> rfl

end Sys2Proof.Machine
end

section
/-! PROOFS. The statements about the bus and the memory (family 20_memory.md), settled. -/

namespace Sys2Proof.Machine

/-- Settles O58: an empty memory has the form and lies within the map, and fills of entries of the map keep both. -/
theorem stepKeepsTheMemoryInMap : Obligations.StepKeepsTheMemoryInMap := by
  intro s t hmem hmap ht
  obtain ⟨hparams, -⟩ := descriptorsChangeOnlyByTheirProducers s t ht
  unfold State.memInv State.mapInv
  rw [hparams]
  rcases step_mem ht with hempty | fills
  · rw [hempty]; exact ⟨rfl, fun a ha => (nomatch ha)⟩
  · exact ⟨fills.wf hmem, fills.inMap hmap⟩

/-- Settles O60: an empty memory holds no word, and fills bring words of the format only. -/
theorem stepKeepsNumWordsInFormat : Obligations.StepKeepsNumWordsInFormat := by
  rintro s t ⟨halpha, hwords⟩ ht
  obtain ⟨hparams, -⟩ := descriptorsChangeOnlyByTheirProducers s t ht
  unfold State.numInv
  rw [hparams]
  refine ⟨?alpha, ?words⟩
  case alpha =>
    rcases step_cfgAlpha ht with h | h | ⟨w, h⟩ <;> rw [h]
    · exact halpha
    · exact truncNum_num097 _
    · exact truncNum_truncNum ..
  case words =>
    rcases step_mem ht with hempty | fills
    · rw [hempty]; exact fun a w ha => (nomatch ha)
    · exact fills.inFormat hwords

/-- Settles O3: a word is its lowest lane below the rest of it, eight times. -/
theorem byteLanesCarryTheWord : Obligations.ByteLanesCarryTheWord := by
  intro w
  refine ⟨wordOfLanes_lanes 8 w w.isLt, fun k hk => ?_⟩
  rw [Word.lanes, List.getElem?_map, List.getElem?_range hk]
  rfl

/-- Settles O11: by `select_entryAddr` and `select_regAddr`, and backwards by `select_cases`. -/
theorem addressMapHasNoAlias : Obligations.AddressMapHasNoAlias := by
  intro p hp
  refine ⟨?table, fun c => ⟨rfl, rfl⟩, fun b i hi => ?entry, fun r => select_regAddr p r, fun a l h => select_cases h⟩
  case table => simp [Buffer.region, Buffer.capacity]
  case entry =>
    obtain ⟨lt, selected⟩ := select_entryAddr hp hi
    exact ⟨lt, (entry_bounds hp hi).1, by rw [Buffer.addr, Buffer.base], selected⟩

/-- Settles O12: a location without a write, or none, gives a bus error; every other transaction is answered OKAY. -/
theorem busErrorsChangeNothing : Obligations.BusErrorsChangeNothing := by
  intro s a w
  refine ⟨rfl, fun hnone => ⟨State.hostRead_of_none hnone, State.hostWrite_of_none fun l hl => ?nothing⟩,
    fun r hr hreadOnly => State.hostWrite_of_none fun l hl => ?readOnly,
    fun b i hb hsin => State.hostWrite_of_none fun l hl => ?result, fun l hl => ?read, fun r hr hwritable => ?write,
    fun i hi => State.hostWrite_replies hi rfl⟩
  case nothing => rw [hnone] at hl; cases hl
  case readOnly =>
    obtain rfl := Option.some.inj (hr.symm.trans hl)
    simp only [List.mem_cons, List.not_mem_nil, or_false] at hreadOnly
    rcases hreadOnly with (rfl | rfl | rfl | rfl | rfl | rfl | rfl) | ⟨d, rfl⟩ <;> rfl
  case result =>
    obtain rfl := Option.some.inj (hb.symm.trans hl)
    cases b with
    | sin => exact absurd rfl hsin
    | _ => rfl
  case read =>
    obtain ⟨value, free⟩ := State.hostRead_of_select hl
    cases hv : s.readLoc l with
    | some v => exact ⟨v, by rw [value v hv, State.reply_replies]⟩
    | none => exact ⟨_, by rw [free hv, State.reply_replies]⟩
  case write =>
    simp only [List.mem_cons, List.not_mem_nil, or_false] at hwritable
    rcases hwritable with rfl | rfl | rfl | rfl | rfl | rfl | rfl <;> exact State.hostWrite_replies hr rfl

/-- Settles O13: what a READ answers is `State.readLoc`; the bounds of `State.withinDesc`, buffer by buffer. -/
theorem entryReadReturnsItsValueOrAFreeWord : Obligations.EntryReadReturnsItsValueOrAFreeWord := by
  intro s a b i hsel
  obtain ⟨value, free⟩ := State.hostRead_of_select hsel
  refine ⟨fun v hv hw hd => ?_, fun h => free (State.readLoc_entry_unspecified h), ?within⟩
  · exact value v ((State.readLoc_entry_of_readable hw hd).trans hv)
  case within =>
    cases b <;> simp [State.withinDesc, and_assoc]

/-- Settles O16: the discarded WRITEs by `State.writeLoc_busy`; CTRL and STATUS take theirs in every state. -/
theorem writesWhileBusyAreDropped : Obligations.WritesWhileBusyAreDropped := by
  intro s a w hb
  refine ⟨fun l hl hdropped => State.hostWrite_of_some hl (State.writeLoc_busy w hb hdropped),
    fun hl => State.hostWrite_of_some hl rfl, fun hl hw => State.hostWrite_of_some hl (congrArg some (if_pos hw)),
    fun hl hw => State.hostWrite_of_some hl (congrArg some (if_neg ?_))⟩
  rw [hw]; decide

/-- Settles O23: no operation but a reset reaches what the completion reads. -/
theorem hostCannotDisturbAPendingCommand : Obligations.HostCannotDisturbAPendingCommand := by
  intro s e i t hb hpin hflight ht
  obtain ⟨u, hu, same⟩ := (State.perform_busy_sameInputs hb hpin hflight).exec ht
  obtain ⟨_, _, _, _, _, _, _, _, rfl⟩ := same
  exact ⟨_, hu, rfl, fun d => rfl, rfl, rfl, rfl, rfl, rfl, rfl, rfl, rfl, rfl⟩

end Sys2Proof.Machine
end

section
/-! PROOFS. Command words (30_encoding.md R100 to R104): which words decode, the way of a word through its byte lanes and
the table word, and what the step makes of the pending word. -/

namespace Sys2Proof.Machine

/-! ### Which words are commands -/

theorem rsv_encode (i : Instr) : Word.rsv (encode i) = 0 := by cases i <;> rfl

theorem op_encode (i : Instr) : Word.op (encode i) = i.op := by cases i <;> rfl

theorem lookup_op (i : Instr) : opcodeMap.lookup i.op = some i := by cases i <;> rfl

/-- The assigned OP values are those of the commands. -/
theorem mem_assignedOps_iff {op : BitVec 8} : op ∈ assignedOps ↔ ∃ i : Instr, op = i.op := by
  constructor
  · intro h
    rw [show assignedOps = opcodeMap.map Prod.fst from rfl] at h
    obtain ⟨x, hx, rfl⟩ := List.mem_map.1 h
    exact ⟨x.2, op_of_mem_opcodeMap x hx⟩
  · rintro ⟨i, rfl⟩
    cases i <;> decide

@[simp] theorem decodeWord_encode (i : Instr) : decodeWord (encode i) = .ok i := by
  simp [decodeWord, rsv_encode, op_encode, lookup_op]

theorem decodeWord_eq_ok_iff {w : Word} {i : Instr} : decodeWord w = .ok i ↔ w = encode i :=
  ⟨eq_encode_of_decodeWord, fun h => h ▸ decodeWord_encode i⟩

/-- A word is a command exactly when RSV = 0 and OP is assigned (30_encoding.md R101). -/
theorem exists_decodeWord_iff {w : Word} :
    (∃ i, decodeWord w = .ok i) ↔ Word.rsv w = 0 ∧ Word.op w ∈ assignedOps := by
  constructor
  · rintro ⟨i, h⟩
    obtain rfl := eq_encode_of_decodeWord h
    exact ⟨rsv_encode i, mem_assignedOps_iff.2 ⟨i, op_encode i⟩⟩
  · rintro ⟨hrsv, hop⟩
    obtain ⟨i, hi⟩ := mem_assignedOps_iff.1 hop
    refine ⟨i, decodeWord_eq_ok_iff.2 ?_⟩
    rw [word_eq_setWidth_op hrsv, hi, encode]

/-- A word with a reserved bit set or an OP outside the map is refused (30_encoding.md R102). -/
theorem exists_decodeWord_error {w : Word} (h : Word.rsv w ≠ 0 ∨ Word.op w ∉ assignedOps) :
    ∃ r, decodeWord w = .error r := by
  cases hd : decodeWord w with
  | error r => exact ⟨r, rfl⟩
  | ok i =>
    obtain ⟨hrsv, hop⟩ := exists_decodeWord_iff.1 ⟨i, hd⟩
    exact absurd h (by simp [hrsv, hop])

/-! ### Byte lanes and the table word -/

/-- The eight lanes of a word decode as the word does (30_encoding.md R104). -/
@[simp] theorem decodeLanes_lanes (w : Word) : decodeLanes (Word.lanes w) = decodeWord w := by
  obtain ⟨carried, -⟩ := byteLanesCarryTheWord w
  have eight : (Word.lanes w).length = 8 := by simp [Word.lanes]
  rw [decodeLanes, if_pos eight, carried]

@[simp] theorem tableWord_toNat (w : Word) : tableWord 64 w.toNat = w := by
  rw [tableWord, Nat.mod_eq_of_lt w.isLt, BitVec.ofNat_toNat, BitVec.setWidth_eq]

theorem decodeTableWord_encode (i : Instr) : decodeTableWord 64 (encode i).toNat = some i := by
  rw [decodeTableWord, tableWord_toNat, decodeLanes_lanes, decodeWord_encode]
  rfl

/-! ### The step that completes the pending word -/

theorem engineStep_of_ok {s : State} {w : Word} {i : Instr} (hw : s.pending = some w) (hd : decodeWord w = .ok i) :
    engineStep s = exec i s := by
  simp [engineStep, hw, hd]

theorem engineStep_of_error {s : State} {w : Word} {r : DecodeReject} (hw : s.pending = some w)
    (hd : decodeWord w = .error r) : engineStep s = .next (s.errorEntry (Word.op w) ⟨.illegalCmd, w⟩) := by
  simp [engineStep, hw, hd]

/-- With a command pending and no host turn left, the step is the engine's (log 7). -/
theorem step_of_busy {s : State} (hb : s.status.busy = true) (hd : s.delay = 0) : step s = engineStep s := by
  simp [step, State.advance, hb, hd]

/-- A first error is recorded with its code and its information (60_exceptions.md R205). -/
theorem State.errorEntry_of_no_err {s : State} (h : s.status.err = false) (op : BitVec 8) (e : CmdError) :
    s.errorEntry op e =
      { s with
        status := { s.status with err := true, errcode := e.code.byte, lastop := op, busy := false }
        errInfo := e.info
        pending := none } := by
  simp [State.errorEntry, h]

end Sys2Proof.Machine
end

section
/-! PROOFS. The statements about command words (family 30_encoding.md), settled. -/

namespace Sys2Proof.Machine

/-- Settles O4: the lanes and the table word carry the encoding, and the accepted word is pending with no host turn
left. -/
theorem encodedCommandRunsInTheNextStep : Obligations.EncodedCommandRunsInTheNextStep := by
  intro i s _
  refine ⟨(decodeLanes_lanes _).trans (decodeWord_encode i), decodeTableWord_encode i, ?_⟩
  rw [State.withFetchWord, tableWord_toNat]
  exact (step_of_busy rfl rfl).trans (engineStep_of_ok rfl (decodeWord_encode i))

/-- Settles O1: `exists_decodeWord_iff`, each row of the map by its command, and that a command has one word. -/
theorem commandWordsAreExactlyTheOpcodeMap : Obligations.CommandWordsAreExactlyTheOpcodeMap := by
  refine ⟨fun w => exists_decodeWord_iff, ?rows, fun w i => decodeWord_eq_ok_iff⟩
  case rows =>
    simp only [decodeWord_eq_ok_iff]
    decide

/-- Settles O26: the decoder refuses the word, and its error is the first. -/
theorem illegalWordCompletesWithError : Obligations.IllegalWordCompletesWithError := by
  intro s w hb hd hw herr hillegal
  obtain ⟨r, hr⟩ := exists_decodeWord_error hillegal
  rw [step_of_busy hb hd, engineStep_of_error hw hr, State.errorEntry_of_no_err herr]
  rfl

/-- Settles O2: the words of commands by `decodeTableWord_encode`, the others by running the decoder on them. -/
theorem writtenOutWordsDecode : Obligations.WrittenOutWordsDecode :=
  ⟨decodeTableWord_encode .nop, decodeTableWord_encode .buildHann, decodeTableWord_encode .dft,
    decodeTableWord_encode .run, by decide, by decide, by decide⟩

end Sys2Proof.Machine
end

section
/-! PROOFS. A command whose checks pass: the completion that every command shares, and what it leaves unchanged. -/

namespace Sys2Proof.Machine

/-- A command whose checks pass completes with the writes of its body. -/
theorem exec_of_checks {i : Instr} (hi : i ≠ .softReset) {s : State} (h : s.checkOf i = none) :
    exec i s = .next ((s.bodyOf i).finish i.op) := by
  rw [exec_eq_complete hi, State.complete_of_none h]

/-- The body of every command but SOFT_RESET leaves the model's own fields. -/
theorem State.bodyOf_keepsHost (s : State) {i : Instr} (hi : i ≠ .softReset) : s.keepsHost (s.bodyOf i) := by
  cases i with
  | softReset => exact absurd rfl hi
  | run => exact ⟨s.writeRun_events, s.writeRun_replies, s.writeRun_latency, s.writeRun_delay, s.writeRun_draws⟩
  | buildFb => exact ⟨s.writeFb_events, s.writeFb_replies, s.writeFb_latency, s.writeFb_delay, s.writeFb_draws⟩
  | dft => exact ⟨s.writeDft_events, s.writeDft_replies, s.writeDft_latency, s.writeDft_delay, s.writeDft_draws⟩
  | nop | clearStatus | buildHann | preemph | window | mag | melfb | log => exact ⟨rfl, rfl, rfl, rfl, rfl⟩

/-- What a completion without error leaves, and what it makes of STATUS (42_control.md R181), for every command but
SOFT_RESET and CLEAR_STATUS: NF is the body's. -/
theorem State.finish_bodyOf_frame {s t : State} {i : Instr} (hr : i ≠ .softReset) (hc : i ≠ .clearStatus)
    (h : s.checkOf i = none) (ht : t = (s.bodyOf i).finish i.op) :
    s.keepsDescs t (producedDescs i) ∧ s.keepsInputs t ∧ s.keepsHost t ∧
      s.completedAs t i.op (s.bodyOf i).status.nf := by
  subst ht
  obtain ⟨⟨nf, status⟩, errInfo⟩ := s.bodyOf_status hr hc
  refine ⟨s.bodyOf_keepsDescs i, (s.bodyOf_fillsTo hr h).1, s.bodyOf_keepsHost hr, ?_, rfl, errInfo⟩
  rw [State.finish_status, status]

theorem Mem.read_fill_of_not_covers {m : Mem} {b : Buffer} {n a : Nat} {v : Nat → Word} (h : ¬ b.covers n a) :
    (m.fill b.base n v).read a = m.read a := by
  rw [Mem.read_fill]; exact if_neg h

/-- A body that is one fill of a buffer leaves every other address. -/
theorem State.keepsMem_of_fill {s t : State} {b : Buffer} {n : Nat} {v : Nat → Word}
    (h : t.mem = s.mem.fill b.base n v) : s.keepsMem t (b.covers n) := by
  intro a ha
  rw [h, Mem.read_fill_of_not_covers ha]

/-! ### The filter bank in memory (40_tables.md R126) -/

/-- Every entry that BUILD_FB writes keeps its value through the fills that follow. -/
theorem State.writeFb_entries {s : State} (hnyq : s.nyq ≤ 2 ^ 24) (hc : s.c ≤ 2 ^ 24) {k : Nat} (hk : k < s.c) :
    s.writeFb.entry .fbIstart k = some (BitVec.ofNat 64 (iStart s.params s.nyq s.c k)) ∧
    s.writeFb.entry .fbIcenter k = some (BitVec.ofNat 64 (iCenter s.params s.nyq s.c k)) ∧
    s.writeFb.entry .fbIend k = some (BitVec.ofNat 64 (iEnd s.params s.nyq s.c k)) ∧
    ∀ i, i < s.nyq → s.writeFb.entry (.fbw k) i = some (weightOf s.params s.nyq s.c k i) := by
  have hk' : k < 2 ^ 24 := by omega
  unfold State.entry
  rw [State.writeFb_mem]
  refine ⟨?start, ?center, ?stop, fun i hi => Mem.read_fillRows hnyq s.c k i hk hi⟩
  case start =>
    rw [Mem.read_fillRows_other (by simp) hnyq hk', Mem.read_fill_other (by decide) hc hk',
      Mem.read_fill_other (by decide) hc hk']
    exact Mem.read_fill_of_mem hk
  case center =>
    rw [Mem.read_fillRows_other (by simp) hnyq hk', Mem.read_fill_other (by decide) hc hk']
    exact Mem.read_fill_of_mem hk
  case stop =>
    rw [Mem.read_fillRows_other (by simp) hnyq hk']
    exact Mem.read_fill_of_mem hk

/-- The addresses that BUILD_FB writes: C entries of each index table, NYQ entries of C rows. -/
def fbWritten (c nyq a : Nat) : Prop :=
  Buffer.covers .fbIstart c a ∨ Buffer.covers .fbIcenter c a ∨ Buffer.covers .fbIend c a ∨
    ∃ k, k < c ∧ Buffer.covers (.fbw k) nyq a

theorem State.writeFb_keepsMem (s : State) : s.keepsMem s.writeFb (fbWritten s.c s.nyq) := by
  intro a ha
  simp only [fbWritten, not_or, not_exists, not_and] at ha
  obtain ⟨start, center, stop, rows⟩ := ha
  have outside : ∀ k i, k < s.c → i < s.nyq → a ≠ (Buffer.fbw k).addr i := by
    rintro k i hk hi rfl
    exact rows k hk ⟨Nat.le_add_right .., Nat.add_lt_add_left hi _⟩
  rw [State.writeFb_mem, Mem.read_fillRows_of_not_mem _ outside, Mem.read_fill_of_not_covers stop,
    Mem.read_fill_of_not_covers center, Mem.read_fill_of_not_covers start]

end Sys2Proof.Machine
end

section
/-! PROOFS. The values of the tables: the ends of the Hann window (40_tables.md R123), and the support and the range of
the filter weights (R125, R128). -/

namespace Sys2Proof.Machine

/-! ### The Hann window -/

/-- A finite number less itself is +0. -/
theorem fsub_self {f : NumFmt} {a : Word} {neg : Bool} {m : Nat} {e : Int} (h : unpack f a = .fin neg m e) :
    fsub f a a = zeroNum f false :=
  fadd_fneg_self h

theorem unpack_numHalf (f : NumFmt) :
    unpack f (numHalf f) = .fin false (2 ^ fracBits f) (-(fracBits f : Int) - 1) := by
  cases f <;> decide

theorem fmul_numHalf_numOne (f : NumFmt) : fmul f (numHalf f) (numOne f) = numHalf f := by
  cases f <;> decide

/-- Where the angle is a whole number of turns, the cosine is 1 in every build (00_scope.md R15) and the entry +0. -/
theorem hannValue_of_mod_eq_zero (p : Params) {n i : Nat} (h : i % (n - 1) = 0) :
    hannValue p n i = zeroNum p.numFmt false := by
  have one : cosT p (i % (n - 1)) (n - 1) = numOne p.numFmt := if_pos h
  rw [hannValue, one, fmul_numHalf_numOne]
  exact fsub_self (unpack_numHalf p.numFmt)

/-! ### Numbers in [0, 1] -/

/-- The word stands for a finite number in [0, 1] whose sign bit is clear. -/
def InUnitInterval (f : NumFmt) (w : Word) : Prop :=
  ∃ (m : Nat) (e : Int), unpack f w = .fin false m e ∧ (m : ℚ) * (2 : ℚ) ^ e ≤ 1

theorem inUnitInterval_zeroNum (f : NumFmt) : InUnitInterval f (zeroNum f false) :=
  ⟨0, minExp f, unpack_zeroNum f false, by simp⟩

/-- The significand and the exponent of 1. -/
theorem one_eq_significand (f : NumFmt) : ((2 ^ fracBits f : Nat) : ℚ) * 2 ^ (-(fracBits f : Int)) = 1 := by
  rw [Nat.cast_pow, Nat.cast_ofNat, ← zpow_natCast, ← zpow_add₀ two_ne_zero, add_neg_cancel, zpow_zero]

theorem inUnitInterval_numOne (f : NumFmt) : InUnitInterval f (numOne f) :=
  ⟨_, _, unpack_numOne f, (one_eq_significand f).le⟩

theorem one_lt_overflowBound (f : NumFmt) : 1 < overflowBound f := by
  have top : (1 : ℚ) ≤ 2 ^ topExp f := one_le_zpow₀ one_le_two (by cases f <;> decide)
  have two_le : (2 : ℚ) ≤ 2 ^ (fracBits f + 1) := le_self_pow₀ one_le_two (by omega)
  calc (1 : ℚ) < 2 ^ (fracBits f + 1) - 1 / 2 := by linarith
    _ ≤ overflowBound f := le_mul_of_one_le_right (by linarith) top

/-- Rounding does not pass 1, which is itself a number of the format: the result is no further from the exact value than
1 is. -/
theorem inUnitInterval_roundNum {f : NumFmt} {n d : Nat} {e : Int} (hd : 0 < d) (h : (n : ℚ) / d * 2 ^ e ≤ 1) :
    InUnitInterval f (roundNum f false n d e) := by
  obtain ⟨m, e', unpacked, nearest⟩ := unpack_roundNum false hd (h.trans_lt (one_lt_overflowBound f))
  have closest := (nearest (2 ^ fracBits f) (-(fracBits f : Int)) (Nat.pow_lt_pow_succ one_lt_two)
    (by cases f <;> decide)).1
  rw [one_eq_significand, abs_of_nonneg (sub_nonneg.2 h)] at closest
  exact ⟨m, e', unpacked, by linarith [le_abs_self ((m : ℚ) * 2 ^ e' - n / d * 2 ^ e)]⟩

/-- The quotient of two integers that the format holds exactly, the divisor the greater. -/
theorem inUnitInterval_fdiv_num (f : NumFmt) {a b : Nat} (hab : a < b) (hb : b < 2 ^ 24) :
    InUnitInterval f (fdiv f (num f a) (num f b)) := by
  obtain ⟨ma, ea, unpackA, valueA⟩ := unpack_num f (hab.trans hb)
  obtain ⟨mb, eb, unpackB, valueB⟩ := unpack_num f hb
  have pos : (0 : ℚ) < b := by exact_mod_cast Nat.zero_lt_of_lt hab
  have mb_ne : mb ≠ 0 := by rintro rfl; rw [Nat.cast_zero, zero_mul] at valueB; exact pos.ne valueB
  have value : (ma : ℚ) / mb * 2 ^ (ea - eb) = a / b := by
    rw [zpow_sub₀ two_ne_zero, div_mul_div_comm, valueA, valueB]
  rw [fdiv_of_fin unpackA unpackB mb_ne]
  refine inUnitInterval_roundNum (Nat.pos_of_ne_zero mb_ne) ?_
  rw [value, div_le_one pos]
  exact_mod_cast hab.le

/-! ### The filter weights (40_tables.md R125, R128) -/

section
variable {f : NumFmt} {s m e i : Nat}

theorem weight_center (f : NumFmt) (s m e : Nat) : weight f s m e m = numOne f := if_pos rfl

theorem weight_below_start (hs : s ≤ m) (hi : i < s) : weight f s m e i = zeroNum f false := by
  rw [weight, if_neg (by omega), if_neg (by omega), if_neg (by omega)]

theorem weight_from_end (hi : max e (m + 1) ≤ i) : weight f s m e i = zeroNum f false := by
  rw [weight, if_neg (by omega), if_neg (by omega), if_neg (by omega)]

/-- Either slope divides a distance by a greater one, and no distance is greater than the centre or the end. -/
theorem inUnitInterval_weight (hm : m < 2 ^ 24) (he : e < 2 ^ 24) : InUnitInterval f (weight f s m e i) := by
  unfold weight
  split
  · exact inUnitInterval_numOne f
  · split
    next rising => exact inUnitInterval_fdiv_num f (by omega) (by omega)
    next =>
      split
      next falling => exact inUnitInterval_fdiv_num f (by omega) (by omega)
      next => exact inUnitInterval_zeroNum f

end

end Sys2Proof.Machine
end

section
/-! PROOFS. The statements about the tables (family 40_tables.md), settled. -/

namespace Sys2Proof.Machine

/-- Settles O35: the one check passes, the body is one fill of HANN, and the rest is every completion's frame. -/
theorem buildHannCompletes : Obligations.BuildHannCompletes := by
  intro s hlo hhi
  have check : s.checkOf .buildHann = none := State.checkN_eq_none.2 ⟨hlo, hhi⟩
  obtain ⟨descs, inputs, host, status⟩ := State.finish_bodyOf_frame (by decide) (by decide) check rfl
  refine ⟨_, exec_of_checks (by decide) check, fun i hi => ?_, ?_, ?_, descs, inputs, host, status⟩
  · exact State.entry_of_fill (b := .hann) s.writeHann_mem hi
  · exact congrArg (Desc.mk true 0) (BitVec.ofNat_toNat ..)
  · exact State.keepsMem_of_fill (b := .hann) s.writeHann_mem

/-- Settles O36: both checks pass, a legal build keeps rows and tables apart (`writeFb_entries`), and the pseudocode
written out is `iCenter`, `iStart`, `iEnd` and `weightOf`. -/
theorem buildFbCompletes : Obligations.BuildFbCompletes := by
  intro s hlegal hflo hfhi hclo hchi
  obtain ⟨-, hfMax, hcMax⟩ := capacities_le_of_legal hlegal
  have check : s.checkOf .buildFb = none :=
    Option.or_eq_none_iff.2 ⟨State.checkF_eq_none.2 ⟨hflo, hfhi⟩, State.checkC_eq_none.2 ⟨hclo, hchi⟩⟩
  obtain ⟨descs, inputs, host, status⟩ := State.finish_bodyOf_frame (by decide) (by decide) check rfl
  refine ⟨_, exec_of_checks (by decide) check, ?entries, rfl, ?ch, ?len, s.writeFb_keepsMem, descs, inputs, host,
    status⟩
  case entries =>
    intro melmax dmel iCen iSta iEn hmelmax hdmel hCen hSta hEn k hk
    obtain rfl : iCen = iCenter s.params s.nyq s.c := by subst hmelmax hdmel; exact hCen
    obtain rfl : iSta = iStart s.params s.nyq s.c := by rw [hSta]; funext k; cases k <;> rfl
    obtain rfl : iEn = iEnd s.params s.nyq s.c := hEn
    exact State.writeFb_entries (by unfold State.nyq; omega) (by omega) hk
  case ch => exact Nat.mod_eq_of_lt (by omega)
  case len => exact Nat.mod_eq_of_lt s.nyq_lt

/-- Settles O46: 0 and N - 1 are whole turns of N - 1. -/
theorem hannEndpointsAreZero : Obligations.HannEndpointsAreZero :=
  fun p _ _ => ⟨hannValue_of_mod_eq_zero p (Nat.zero_mod _), hannValue_of_mod_eq_zero p (Nat.mod_self _)⟩

/-- Settles O47: the bounds of the indices, and the weights by their place; a legal NYQ is below `2^24`, so that the
distances are exact numbers. -/
theorem filterWeightsHaveTheirSupport : Obligations.FilterWeightsHaveTheirSupport := by
  intro p nyq c k i _
  have center_le := iCenter_le p nyq c k
  have end_le := iEnd_le p nyq c k
  refine ⟨iStart_le .., center_le, end_le, weight_center .., weight_below_start, weight_from_end,
    fun hlegal hnyq => ?_⟩
  obtain ⟨-, hfMax, -⟩ := capacities_le_of_legal hlegal
  exact inUnitInterval_weight (by omega) (by omega)

end Sys2Proof.Machine
end

section
/-! PROOFS. What a stage command makes of its buffer (family 41_stages.md): the completion of a stage that is one fill of a
buffer, the sums of 00_scope.md R14, and NF. -/

namespace Sys2Proof.Machine

/-- The descriptor of a length that a configuration register holds. -/
theorem Desc.ofLen_toNat (l : BitVec 32) : Desc.ofLen l.toNat = ⟨true, 0, l⟩ :=
  congrArg (Desc.mk true 0) (BitVec.ofNat_toNat ..)

/-- A command whose checks pass and whose body fills one buffer: the entries it writes, and everything it leaves. -/
theorem exec_of_fill {s : State} {i : Instr} {b : Buffer} {n : Nat} {v : Nat → Word} (hr : i ≠ .softReset)
    (hc : i ≠ .clearStatus) (check : s.checkOf i = none) (fill : (s.bodyOf i).mem = s.mem.fill b.base n v) :
    exec i s = .next ((s.bodyOf i).finish i.op) ∧
      (∀ j, j < n → ((s.bodyOf i).finish i.op).entry b j = some (v j)) ∧
      s.keepsMem ((s.bodyOf i).finish i.op) (b.covers n) ∧
      s.keepsDescs ((s.bodyOf i).finish i.op) (producedDescs i) ∧ s.keepsInputs ((s.bodyOf i).finish i.op) ∧
      s.keepsHost ((s.bodyOf i).finish i.op) ∧
      s.completedAs ((s.bodyOf i).finish i.op) i.op (s.bodyOf i).status.nf :=
  ⟨exec_of_checks hr check, fun _ hj => State.entry_of_fill fill hj, State.keepsMem_of_fill fill,
    State.finish_bodyOf_frame hr hc check rfl⟩

/-! ### Sums (00_scope.md R14) -/

theorem fsum_eq_foldl (f : NumFmt) (n : Nat) (t : Nat → Word) :
    fsum f n t = (List.range n).foldl (fun acc k => fadd f acc (t k)) (zeroNum f false) := by
  induction n with
  | zero => rfl
  | succ n ih => rw [List.range_succ, List.foldl_append, ← ih]; rfl

/-- A sum depends on its terms below the bound only. -/
theorem fsum_congr {f : NumFmt} {n : Nat} {t u : Nat → Word} (h : ∀ k, k < n → t k = u k) :
    fsum f n t = fsum f n u := by
  induction n with
  | zero => rfl
  | succ n ih => rw [fsum, fsum, ih fun k hk => h k (by omega), h n (by omega)]

/-! ### The two buffers of DFT (41_stages.md R150) -/

/-- The fill of IM, which comes second, leaves RE. -/
theorem State.writeDft_re (s : State) {i : Nat} (hf : s.f ≤ 2 ^ 24) (hi : i < s.f) :
    s.writeDft.entry .re i = some (dftRe s.params s.n s.f (s.operand .win) i) := by
  rw [State.entry, State.writeDft_mem, Mem.read_fill_other (by decide) hf (by omega)]
  exact Mem.read_fill_of_mem hi

theorem State.writeDft_im (s : State) {i : Nat} (hi : i < s.f) :
    s.writeDft.entry .im i = some (dftIm s.params s.n s.f (s.operand .win) i) :=
  Mem.read_fill_of_mem hi

/-! ### NF (10_state.md R41) -/

theorem nonFinite_iff {f : NumFmt} {c : Nat} {v : Nat → Word} :
    nonFinite f c v = true ↔ ∃ k, k < c ∧ isFinite f (v k) = false := by
  simp [nonFinite]

/-- After LOG, NF says whether some value in LOGMEL[0, C) is not finite. -/
theorem State.writeLog_nf_iff (s : State) : s.writeLog.status.nf = true ↔
    ∃ k w, k < s.c ∧ s.writeLog.entry .logmel k = some w ∧ isFinite s.params.numFmt w = false := by
  have entries : ∀ k, k < s.c → s.writeLog.entry .logmel k = some (logValue s.params (s.operand .mel k)) :=
    fun _ hk => State.entry_of_fill (b := .logmel) s.writeLog_mem hk
  rw [State.writeLog_status, nonFinite_iff]
  constructor
  · rintro ⟨k, hk, h⟩
    exact ⟨k, _, hk, entries k hk, h⟩
  · rintro ⟨k, w, hk, hw, h⟩
    rw [entries k hk] at hw
    exact ⟨k, hk, Option.some.inj hw ▸ h⟩

end Sys2Proof.Machine
end

section
/-! PROOFS. The statements about the single stages (family 41_stages.md), settled. -/

namespace Sys2Proof.Machine

/-- Settles O37: N = 0 is legal too, and then no entry is written. -/
theorem preemphCompletes : Obligations.PreemphCompletes := by
  intro s hn hsin
  have check : s.checkOf .preemph = none :=
    Option.or_eq_none_iff.2 ⟨State.checkN_eq_none.2 ⟨Nat.zero_le _, hn⟩, State.checkSin_eq_none.2 hsin⟩
  obtain ⟨run, entries, frame⟩ := exec_of_fill (b := .pre) (by decide) (by decide) check s.writePreemph_mem
  refine ⟨_, run, fun h0 => ?first, fun i x y h0 hi hx hy => ?later, Desc.ofLen_toNat s.cfgN, frame⟩
  case first =>
    obtain ⟨x, hx⟩ := Option.isSome_iff_exists.1 (hsin 0 h0)
    rw [entries 0 h0, preemphValue, if_pos rfl, State.operand_of_entry hx, hx]
  case later =>
    rw [entries i hi, preemphValue, if_neg (by omega), State.operand_of_entry hx, State.operand_of_entry hy]

/-- Settles O38: the three checks pass, and the body is one fill of WIN. -/
theorem windowCompletes : Obligations.WindowCompletes := by
  intro s hlo hhi hpre hhann
  have check : s.checkOf .window = none :=
    Option.or_eq_none_iff.2 ⟨State.checkN_eq_none.2 ⟨hlo, hhi⟩,
      Option.or_eq_none_iff.2 ⟨State.need_eq_none.2 hpre, State.need_eq_none.2 hhann⟩⟩
  obtain ⟨run, entries, frame⟩ := exec_of_fill (b := .win) (by decide) (by decide) check s.writeWindow_mem
  refine ⟨_, run, fun i x h hi hx hh => ?value, fun i hi => ?written, Desc.ofLen_toNat s.cfgN, frame⟩
  case value => rw [entries i hi, State.operand_of_entry hx, State.operand_of_entry hh]
  case written => rw [entries i hi]; rfl

/-- Settles O39: RE is filled before IM, and a legal build keeps the two apart. -/
theorem dftCompletes : Obligations.DftCompletes := by
  intro s x hlegal hlo hhi hwin hx
  obtain ⟨-, hfMax, -⟩ := capacities_le_of_legal hlegal
  have hf : s.f ≤ 2 ^ 24 := by omega
  have check : s.checkOf .dft = none :=
    Option.or_eq_none_iff.2 ⟨State.checkF_eq_none.2 ⟨hlo, hhi⟩, State.need_eq_none.2 hwin⟩
  have samples : ∀ k, k < s.n → s.operand .win k = x k := fun k hk => State.operand_of_entry (hx k hk)
  obtain ⟨descs, inputs, host, status⟩ := State.finish_bodyOf_frame (by decide) (by decide) check rfl
  refine ⟨_, exec_of_checks (by decide) check, fun i hi => ⟨?re, ?im⟩, Desc.ofLen_toNat s.cfgF, ?mem, descs, inputs,
    host, status⟩
  case re =>
    rw [← fsum_eq_foldl]
    calc s.writeDft.entry .re i = some (dftRe s.params s.n s.f (s.operand .win) i) := s.writeDft_re hf hi
      _ = _ := congrArg some (fsum_congr fun k hk => by rw [samples k hk])
  case im =>
    rw [← fsum_eq_foldl]
    calc s.writeDft.entry .im i = some (dftIm s.params s.n s.f (s.operand .win) i) := s.writeDft_im hi
      _ = _ := congrArg some (fsum_congr fun k hk => by rw [samples k hk])
  case mem =>
    intro a ha
    obtain ⟨hre, him⟩ := not_or.1 ha
    rw [State.finish_mem]
    exact (Mem.read_fill_of_not_covers him).trans (Mem.read_fill_of_not_covers hre)

/-- Settles O40: both checks pass, and the body is one fill of AMP. -/
theorem magCompletes : Obligations.MagCompletes := by
  intro s hlo hhi hdft
  have check : s.checkOf .mag = none :=
    Option.or_eq_none_iff.2 ⟨State.checkF_eq_none.2 ⟨hlo, hhi⟩, State.need_eq_none.2 hdft⟩
  obtain ⟨run, entries, frame⟩ := exec_of_fill (b := .amp) (by decide) (by decide) check s.writeMag_mem
  refine ⟨_, run, fun i x y hi hx hy => ?value, fun i hi => ?written, Desc.ofLen_toNat s.cfgF, frame⟩
  case value => rw [entries i hi, State.operand_of_entry hx, State.operand_of_entry hy, magValue]
  case written => rw [entries i hi]; rfl

/-- Settles O41: the four checks pass, and the body is one fill of MEL with `fsum`, the fold written out. -/
theorem melfbCompletes : Obligations.MelfbCompletes := by
  intro s x g hflo hfhi hclo hchi hamp hfb hch hx hg
  obtain ⟨valid, len⟩ := hfb
  have check : s.checkOf .melfb = none :=
    Option.or_eq_none_iff.2 ⟨State.checkF_eq_none.2 ⟨hflo, hfhi⟩,
      Option.or_eq_none_iff.2 ⟨State.checkC_eq_none.2 ⟨hclo, hchi⟩,
        Option.or_eq_none_iff.2 ⟨State.need_eq_none.2 hamp, State.needFb_eq_none.2 ⟨valid, len, hch⟩⟩⟩⟩
  obtain ⟨run, entries, frame⟩ := exec_of_fill (b := .mel) (by decide) (by decide) check s.writeMelfb_mem
  refine ⟨_, run, fun k hk => ?_, Desc.ofLen_toNat s.cfgC, frame⟩
  rw [entries k hk, ← fsum_eq_foldl]
  refine congrArg some (fsum_congr fun i hi => ?_)
  rw [State.operand_of_entry (hx i hi), State.operand_of_entry (hg k i hk hi)]

/-- Settles O42: both checks pass, the body is one fill of LOGMEL, and NF is that of `writeLog_nf_iff`. -/
theorem logCompletes : Obligations.LogCompletes := by
  intro s x hlo hhi hmel hx
  have check : s.checkOf .log = none :=
    Option.or_eq_none_iff.2 ⟨State.checkC_eq_none.2 ⟨hlo, hhi⟩, State.need_eq_none.2 hmel⟩
  obtain ⟨run, entries, frame⟩ := exec_of_fill (b := .logmel) (by decide) (by decide) check s.writeLog_mem
  refine ⟨_, _, run, fun k hk => ?_, s.writeLog_nf_iff, Desc.ofLen_toNat s.cfgC, frame⟩
  rw [entries k hk, State.operand_of_entry (hx k hk), logValue]

end Sys2Proof.Machine
end

section
/-! PROOFS. The chain of RUN (42_control.md R187): no stage writes a buffer of an earlier one, so that in the state after
RUN every buffer is its stage's function of the buffers before it. -/

namespace Sys2Proof.Machine

/-! ### Which buffers a command writes -/

/-- The buffers and tables a command's body writes; RUN writes those of its stages, and SOFT_RESET clears them all. -/
def writesBuffer : Instr → Buffer → Bool
  | .buildHann, .hann | .buildFb, .fbIstart | .buildFb, .fbIcenter | .buildFb, .fbIend | .buildFb, .fbw _
  | .preemph, .pre | .window, .win | .dft, .re | .dft, .im | .mag, .amp | .melfb, .mel | .log, .logmel
  | .softReset, _ | .run, _ => true
  | _, _ => false

/-- What a command fills from the first entry of a buffer on does not reach the next region of the map (20_memory.md
R74). -/
structure State.FitsMap (s : State) : Prop where
  n : s.n ≤ 2 ^ 24
  f : s.f ≤ 2 ^ 24
  c : s.c ≤ 2 ^ 24

theorem State.FitsMap.nyq {s : State} (hs : s.FitsMap) : s.nyq ≤ 2 ^ 24 := (Nat.div_le_self _ _).trans hs.f

theorem State.fitsMap_of_runConfig {s : State} (hlegal : s.params.legal = true) (h : s.runConfig) : s.FitsMap := by
  obtain ⟨hnMax, hfMax, hcMax⟩ := capacities_le_of_legal hlegal
  obtain ⟨-, hn, -, hf, -, hc⟩ := h
  exact ⟨by omega, by omega, by omega⟩

section
variable {s t : State} (h : s.keepsInputs t)
include h

/-- What a command takes from the configuration. -/
theorem State.keepsInputs.config : t.params = s.params ∧ t.cfgAlpha = s.cfgAlpha ∧ t.n = s.n ∧ t.f = s.f ∧ t.c = s.c ∧
    t.nyq = s.nyq := by
  obtain ⟨params, -, cfgN, cfgF, cfgC, cfgAlpha⟩ := h
  exact ⟨params, cfgAlpha, congrArg BitVec.toNat cfgN, congrArg BitVec.toNat cfgF, congrArg BitVec.toNat cfgC,
    congrArg (·.toNat / 2) cfgF⟩

theorem State.keepsInputs.fitsMap (hs : s.FitsMap) : t.FitsMap := by
  obtain ⟨-, -, n, f, c, -⟩ := h.config
  exact ⟨n ▸ hs.n, f ▸ hs.f, c ▸ hs.c⟩

theorem State.keepsInputs.trans {u : State} (h' : t.keepsInputs u) : s.keepsInputs u := by
  obtain ⟨params, irqEn, cfgN, cfgF, cfgC, cfgAlpha⟩ := h
  obtain ⟨params', irqEn', cfgN', cfgF', cfgC', cfgAlpha'⟩ := h'
  exact ⟨params'.trans params, irqEn'.trans irqEn, cfgN'.trans cfgN, cfgF'.trans cfgF, cfgC'.trans cfgC,
    cfgAlpha'.trans cfgAlpha⟩

end

theorem State.bodyOf_keepsInputs (s : State) {i : Instr} (hi : i ≠ .softReset) : s.keepsInputs (s.bodyOf i) := by
  cases i with
  | softReset => exact absurd rfl hi
  | run =>
    exact ⟨s.writeRun_params, s.writeRun_irqEn, s.writeRun_cfgN, s.writeRun_cfgF, s.writeRun_cfgC, s.writeRun_cfgAlpha⟩
  | buildFb =>
    exact ⟨s.writeFb_params, s.writeFb_irqEn, s.writeFb_cfgN, s.writeFb_cfgF, s.writeFb_cfgC, s.writeFb_cfgAlpha⟩
  | nop | clearStatus | buildHann | preemph | window | dft | mag | melfb | log => exact ⟨rfl, rfl, rfl, rfl, rfl, rfl⟩

/-- A body leaves every entry of the buffers that are not its own. -/
theorem State.bodyOf_entry {s : State} (hs : s.FitsMap) {i : Instr} {b : Buffer} (h : writesBuffer i b = false) {j : Nat}
    (hj : j < 2 ^ 24) : (s.bodyOf i).entry b j = s.entry b j := by
  have other : ∀ b', writesBuffer i b' = true → b ≠ b' := by rintro b' h' rfl; simp [h] at h'
  unfold State.entry
  cases i with
  | softReset | run => simp [writesBuffer] at h
  | nop | clearStatus => rfl
  | buildHann => exact Mem.read_fill_other (other .hann rfl) hs.n hj
  | preemph => exact Mem.read_fill_other (other .pre rfl) hs.n hj
  | window => exact Mem.read_fill_other (other .win rfl) hs.n hj
  | mag => exact Mem.read_fill_other (other .amp rfl) hs.f hj
  | melfb => exact Mem.read_fill_other (other .mel rfl) hs.c hj
  | log => exact Mem.read_fill_other (other .logmel rfl) hs.c hj
  | dft => exact (Mem.read_fill_other (other .im rfl) hs.f hj).trans (Mem.read_fill_other (other .re rfl) hs.f hj)
  | buildFb =>
    calc s.writeFb.mem.read (b.addr j)
      _ = _ := Mem.read_fillRows_other (fun k _ => other (.fbw k) rfl) hs.nyq hj
      _ = _ := Mem.read_fill_other (other .fbIend rfl) hs.c hj
      _ = _ := Mem.read_fill_other (other .fbIcenter rfl) hs.c hj
      _ = s.mem.read (b.addr j) := Mem.read_fill_other (other .fbIstart rfl) hs.c hj

/-! ### One body after the other -/

/-- The state after the bodies of some commands, in order. -/
def State.after (s : State) (l : List Instr) : State := l.foldl State.bodyOf s

theorem State.after_keepsInputs {l : List Instr} (h : ∀ i ∈ l, i ≠ .softReset) (s : State) :
    s.keepsInputs (s.after l) := by
  induction l generalizing s with
  | nil => exact ⟨rfl, rfl, rfl, rfl, rfl, rfl⟩
  | cons i l ih =>
    obtain ⟨hi, hl⟩ := List.forall_mem_cons.1 h
    exact (s.bodyOf_keepsInputs hi).trans (ih hl _)

/-- Bodies that do not write a buffer leave its entries. -/
theorem State.after_entry {l : List Instr} {b : Buffer} (h : ∀ i ∈ l, writesBuffer i b = false) {j : Nat}
    (hj : j < 2 ^ 24) {s : State} (hs : s.FitsMap) : (s.after l).entry b j = s.entry b j := by
  induction l generalizing s with
  | nil => rfl
  | cons i l ih =>
    obtain ⟨hi, hl⟩ := List.forall_mem_cons.1 h
    have not_reset : i ≠ .softReset := by rintro rfl; simp [writesBuffer] at hi
    exact (ih hl ((s.bodyOf_keepsInputs not_reset).fitsMap hs)).trans (State.bodyOf_entry hs hi hj)

/-- The commands whose bodies RUN performs, in order (42_control.md R187). -/
def runStages : List Instr := [.buildHann, .buildFb, .preemph, .window, .dft, .mag, .melfb, .log]

theorem State.writeRun_eq_after (s : State) : s.writeRun = s.after runStages := rfl

/-- Each stage of RUN starts in a state `u` with the configuration of `s`. What it writes and no later stage does is found
after RUN, and what neither it nor a later stage writes, it reads as it is found after RUN. -/
theorem State.writeRun_stage {s : State} (hs : s.FitsMap) (before : List Instr) (i : Instr) (later : List Instr)
    (h : runStages = before ++ i :: later) : ∃ u, s.keepsInputs u ∧
      (∀ b j, (∀ i' ∈ later, writesBuffer i' b = false) → j < 2 ^ 24 →
        s.writeRun.entry b j = (u.bodyOf i).entry b j) ∧
      (∀ b j, (∀ i' ∈ i :: later, writesBuffer i' b = false) → j < 2 ^ 24 →
        u.operand b j = s.writeRun.operand b j) := by
  have no_reset : ∀ i' ∈ before ++ i :: later, i' ≠ .softReset := by rw [← h]; decide
  obtain ⟨no_reset_before, no_reset_from⟩ := List.forall_mem_append.1 no_reset
  have split : s.writeRun = (s.after before).after (i :: later) := by
    rw [State.writeRun_eq_after, h]; exact List.foldl_append
  have inputs := State.after_keepsInputs no_reset_before s
  have fits := inputs.fitsMap hs
  have fits' := (State.bodyOf_keepsInputs _ (no_reset_from i List.mem_cons_self)).fitsMap fits
  refine ⟨s.after before, inputs, fun b j hb hj => ?_, fun b j hb hj => ?_⟩
  · rw [split]; exact State.after_entry hb hj fits'
  · rw [split, State.operand, State.operand, State.after_entry hb hj fits]

/-! ### The buffers after RUN, each by the stage that writes it -/

/-- PRE[i] depends on the samples up to i only. -/
theorem preemphValue_congr {f : NumFmt} {a : Word} {x y : Nat → Word} {i : Nat} (h : ∀ j, j ≤ i → x j = y j) :
    preemphValue f a x i = preemphValue f a y i := by
  rw [preemphValue, preemphValue, h 0 (Nat.zero_le _), h i (Nat.le_refl _), h (i - 1) (Nat.sub_le _ _)]

section
variable {s : State} (hs : s.FitsMap) {i k : Nat}
include hs

theorem State.writeRun_sin (hi : i < s.n) : s.writeRun.entry .sin i = s.entry .sin i := by
  rw [State.writeRun_eq_after]
  exact State.after_entry (by decide) (hi.trans_le hs.n) hs

theorem State.writeRun_hann (hi : i < s.n) : s.writeRun.entry .hann i = some (hannValue s.params s.n i) := by
  obtain ⟨u, inputs, written, -⟩ := State.writeRun_stage hs [] .buildHann _ rfl
  obtain ⟨params, -, n, -⟩ := inputs.config
  rw [written .hann i (by decide) (hi.trans_le hs.n), ← params, ← n]
  exact State.entry_of_fill (b := .hann) u.writeHann_mem (n ▸ hi)

theorem State.writeRun_fbw (hk : k < s.c) (hi : i < s.nyq) :
    s.writeRun.entry (.fbw k) i = some (weightOf s.params s.nyq s.c k i) := by
  obtain ⟨u, inputs, written, -⟩ := State.writeRun_stage hs [.buildHann] .buildFb _ rfl
  obtain ⟨params, -, -, -, c, nyq⟩ := inputs.config
  obtain ⟨-, -, -, rows⟩ := State.writeFb_entries (s := u) (nyq ▸ hs.nyq) (c ▸ hs.c) (c ▸ hk)
  rw [written (.fbw k) i (by simp [writesBuffer]) (hi.trans_le hs.nyq), ← params, ← nyq, ← c]
  exact rows i (nyq ▸ hi)

theorem State.writeRun_pre (hi : i < s.n) : s.writeRun.entry .pre i =
    some (preemphValue s.params.numFmt s.cfgAlpha (s.writeRun.operand .sin) i) := by
  obtain ⟨u, inputs, written, read⟩ := State.writeRun_stage hs [.buildHann, .buildFb] .preemph _ rfl
  obtain ⟨params, alpha, n, -⟩ := inputs.config
  have hi' : i < 2 ^ 24 := hi.trans_le hs.n
  rw [written .pre i (by decide) hi', ← params, ← alpha,
    ← preemphValue_congr fun j hj => read .sin j (by decide) (hj.trans_lt hi')]
  exact State.entry_of_fill (b := .pre) u.writePreemph_mem (n ▸ hi)

theorem State.writeRun_win (hi : i < s.n) : s.writeRun.entry .win i =
    some (fmul s.params.numFmt (s.writeRun.operand .pre i) (s.writeRun.operand .hann i)) := by
  obtain ⟨u, inputs, written, read⟩ := State.writeRun_stage hs [.buildHann, .buildFb, .preemph] .window _ rfl
  obtain ⟨params, -, n, -⟩ := inputs.config
  have hi' : i < 2 ^ 24 := hi.trans_le hs.n
  rw [written .win i (by decide) hi', ← params, ← read .pre i (by decide) hi', ← read .hann i (by decide) hi']
  exact State.entry_of_fill (b := .win) u.writeWindow_mem (n ▸ hi)

/-- RE and IM, written by one stage from the same samples. -/
theorem State.writeRun_re_im (hi : i < s.f) :
    s.writeRun.entry .re i = some (dftRe s.params s.n s.f (s.writeRun.operand .win) i) ∧
      s.writeRun.entry .im i = some (dftIm s.params s.n s.f (s.writeRun.operand .win) i) := by
  obtain ⟨u, inputs, written, read⟩ := State.writeRun_stage hs [.buildHann, .buildFb, .preemph, .window] .dft _ rfl
  obtain ⟨params, -, n, f, -⟩ := inputs.config
  have hi' : i < 2 ^ 24 := hi.trans_le hs.f
  have samples : ∀ k, k < s.n → u.operand .win k = s.writeRun.operand .win k := fun k hk =>
    read .win k (by decide) (hk.trans_le hs.n)
  have re : dftRe s.params s.n s.f (u.operand .win) i = dftRe s.params s.n s.f (s.writeRun.operand .win) i :=
    fsum_congr fun k hk => by rw [samples k hk]
  have im : dftIm s.params s.n s.f (u.operand .win) i = dftIm s.params s.n s.f (s.writeRun.operand .win) i :=
    fsum_congr fun k hk => by rw [samples k hk]
  rw [written .re i (by decide) hi', written .im i (by decide) hi', ← re, ← im, ← params, ← n, ← f]
  exact ⟨u.writeDft_re (f ▸ hs.f) (f ▸ hi), u.writeDft_im (f ▸ hi)⟩

theorem State.writeRun_amp (hi : i < s.f) : s.writeRun.entry .amp i =
    some (magValue s.params.numFmt (s.writeRun.operand .re i) (s.writeRun.operand .im i)) := by
  obtain ⟨u, inputs, written, read⟩ :=
    State.writeRun_stage hs [.buildHann, .buildFb, .preemph, .window, .dft] .mag _ rfl
  obtain ⟨params, -, -, f, -⟩ := inputs.config
  have hi' : i < 2 ^ 24 := hi.trans_le hs.f
  rw [written .amp i (by decide) hi', ← params, ← read .re i (by decide) hi', ← read .im i (by decide) hi']
  exact State.entry_of_fill (b := .amp) u.writeMag_mem (f ▸ hi)

theorem State.writeRun_mel (hk : k < s.c) : s.writeRun.entry .mel k =
    some (fsum s.params.numFmt s.nyq
      (fun i => fmul s.params.numFmt (s.writeRun.operand .amp i) (s.writeRun.operand (.fbw k) i))) := by
  obtain ⟨u, inputs, written, read⟩ :=
    State.writeRun_stage hs [.buildHann, .buildFb, .preemph, .window, .dft, .mag] .melfb _ rfl
  obtain ⟨params, -, -, -, c, nyq⟩ := inputs.config
  have energy : u.melValue k = fsum s.params.numFmt s.nyq
      (fun i => fmul s.params.numFmt (s.writeRun.operand .amp i) (s.writeRun.operand (.fbw k) i)) := by
    rw [State.melValue, params, nyq]
    refine fsum_congr fun i hi => ?_
    have hi' : i < 2 ^ 24 := hi.trans_le hs.nyq
    rw [read .amp i (by decide) hi', read (.fbw k) i (by simp [writesBuffer]) hi']
  rw [written .mel k (by decide) (hk.trans_le hs.c), ← energy]
  exact State.entry_of_fill (b := .mel) u.writeMelfb_mem (c ▸ hk)

theorem State.writeRun_logmel (hk : k < s.c) :
    s.writeRun.entry .logmel k = some (logValue s.params (s.writeRun.operand .mel k)) := by
  obtain ⟨u, inputs, written, read⟩ :=
    State.writeRun_stage hs [.buildHann, .buildFb, .preemph, .window, .dft, .mag, .melfb] .log _ rfl
  obtain ⟨params, -, -, -, c, -⟩ := inputs.config
  have hk' : k < 2 ^ 24 := hk.trans_le hs.c
  rw [written .logmel k (by decide) hk', ← params, ← read .mel k (by decide) hk']
  exact State.entry_of_fill (b := .logmel) u.writeLog_mem (c ▸ hk)

end

/-- NF after RUN is that of its last stage. -/
theorem State.writeRun_nf_iff (s : State) : s.writeRun.status.nf = true ↔
    ∃ k w, k < s.c ∧ s.writeRun.entry .logmel k = some w ∧ isFinite s.params.numFmt w = false := by
  have inputs := State.after_keepsInputs
    (l := [.buildHann, .buildFb, .preemph, .window, .dft, .mag, .melfb]) (by decide) s
  obtain ⟨params, -, -, -, c, -⟩ := inputs.config
  rw [← params, ← c]
  exact State.writeLog_nf_iff _

end Sys2Proof.Machine
end

section
/-! PROOFS. What the stages make of +0 (41_stages.md R171): the product of a zero and a finite number is a zero, and a sum
of zeros of either sign that starts from +0 is +0. -/

namespace Sys2Proof.Machine

/-- The word is a zero of either sign. -/
def IsZero (f : NumFmt) (w : Word) : Prop := ∃ neg, w = zeroNum f neg

theorem exists_fin_of_isFinite {f : NumFmt} {a : Word} (h : isFinite f a = true) :
    ∃ neg m e, unpack f a = .fin neg m e := by
  unfold isFinite at h
  split at h
  next neg m e unpacked => exact ⟨neg, m, e, unpacked⟩
  all_goals cases h

theorem isFinite_of_fin {f : NumFmt} {a : Word} {neg : Bool} {m : Nat} {e : Int} (h : unpack f a = .fin neg m e) :
    isFinite f a = true := by
  simp [isFinite, h]

section
variable {f : NumFmt} {a b : Word}

theorem isZero_fmul_of_isFinite_right (ha : IsZero f a) (hb : isFinite f b = true) : IsZero f (fmul f a b) := by
  obtain ⟨sa, rfl⟩ := ha
  obtain ⟨sb, mb, eb, hb⟩ := exists_fin_of_isFinite hb
  exact ⟨sa ^^ sb, by rw [fmul_of_fin (unpack_zeroNum f sa) hb, Nat.zero_mul]; exact if_pos rfl⟩

theorem isZero_fmul_of_isFinite_left (ha : isFinite f a = true) (hb : IsZero f b) : IsZero f (fmul f a b) := by
  obtain ⟨sb, rfl⟩ := hb
  obtain ⟨sa, ma, ea, ha⟩ := exists_fin_of_isFinite ha
  exact ⟨sa ^^ sb, by rw [fmul_of_fin ha (unpack_zeroNum f sb), Nat.mul_zero]; exact if_pos rfl⟩

theorem fneg_zeroNum (f : NumFmt) (neg : Bool) : fneg f (zeroNum f neg) = zeroNum f (!neg) := by
  cases f <;> cases neg <;> decide

theorem isZero_fneg (ha : IsZero f a) : IsZero f (fneg f a) := by
  obtain ⟨neg, rfl⟩ := ha
  exact ⟨!neg, fneg_zeroNum f neg⟩

theorem fadd_zero_of_isZero (hb : IsZero f b) : fadd f (zeroNum f false) b = zeroNum f false := by
  obtain ⟨neg, rfl⟩ := hb
  exact fadd_zeroNum_zeroNum

end

/-- An ascending sum starts from +0, and +0 plus a zero of either sign is +0. -/
theorem fsum_of_isZero {f : NumFmt} {n : Nat} {t : Nat → Word} (h : ∀ k, k < n → IsZero f (t k)) :
    fsum f n t = zeroNum f false := by
  induction n with
  | zero => rfl
  | succ n ih => rw [fsum, ih fun k hk => h k (by omega), fadd_zero_of_isZero (h n (by omega))]

theorem preemphValue_of_zero {f : NumFmt} {a : Word} {x : Nat → Word} {i : Nat} (ha : isFinite f a = true)
    (hx : ∀ j, j ≤ i → x j = zeroNum f false) : preemphValue f a x i = zeroNum f false := by
  unfold preemphValue
  split
  · exact hx 0 (Nat.zero_le i)
  · have product : IsZero f (fmul f a (x (i - 1))) := isZero_fmul_of_isFinite_left ha ⟨false, hx _ (Nat.sub_le i 1)⟩
    rw [fsub, hx i (Nat.le_refl i), fadd_zero_of_isZero (isZero_fneg product)]

theorem magValue_zero (f : NumFmt) : magValue f (zeroNum f false) (zeroNum f false) = zeroNum f false := by
  cases f <;> decide

theorem logValue_zero (p : Params) : logValue p (zeroNum p.numFmt false) = infNum p.numFmt true := by
  rw [logValue, log10F_of_zero (unpack_zeroNum ..)]
  cases p.numFmt <;> decide

/-- A filter weight is finite (40_tables.md R128). -/
theorem isFinite_weightOf {p : Params} {nyq c k i : Nat} (hnyq : nyq < 2 ^ 24) :
    isFinite p.numFmt (weightOf p nyq c k i) = true := by
  obtain ⟨m, e, unpacked, -⟩ : InUnitInterval p.numFmt (weightOf p nyq c k i) :=
    inUnitInterval_weight ((iCenter_le p nyq c k).trans_lt hnyq) ((iEnd_le p nyq c k).trans_lt hnyq)
  exact isFinite_of_fin unpacked

end Sys2Proof.Machine
end

section
/-! PROOFS. RUN on an all-zero frame (41_stages.md R171), settled stage by stage in the state after RUN. -/

namespace Sys2Proof.Machine

/-- What R171 needs of the state before RUN: every sample +0, and α, the window and the twiddles finite. -/
structure State.ZeroFrame (s : State) : Prop where
  legal : s.params.legal = true
  config : s.runConfig
  sin : ∀ i, i < s.n → s.entry .sin i = some (zeroNum s.params.numFmt false)
  alpha : isFinite s.params.numFmt s.cfgAlpha = true
  hann : ∀ i, i < s.n → isFinite s.params.numFmt (hannValue s.params s.n i) = true
  twiddles : ∀ j, j < s.f → isFinite s.params.numFmt (cosT s.params j s.f) = true ∧
    isFinite s.params.numFmt (sinT s.params j s.f) = true

namespace State.ZeroFrame

variable {s : State} (h : s.ZeroFrame) {i k : Nat}
include h

theorem fits : s.FitsMap := State.fitsMap_of_runConfig h.legal h.config

theorem checks : s.checkOf .run = none := by
  obtain ⟨hnlo, hnhi, hflo, hfhi, hclo, hchi⟩ := h.config
  exact Option.or_eq_none_iff.2 ⟨State.checkN_eq_none.2 ⟨hnlo, hnhi⟩,
    Option.or_eq_none_iff.2 ⟨State.checkF_eq_none.2 ⟨hflo, hfhi⟩,
      Option.or_eq_none_iff.2 ⟨State.checkC_eq_none.2 ⟨hclo, hchi⟩,
        State.checkSin_eq_none.2 fun i hi => by rw [State.sinW, h.sin i hi]; rfl⟩⟩⟩

theorem pre (hi : i < s.n) : s.writeRun.operand .pre i = zeroNum s.params.numFmt false := by
  rw [State.operand_of_entry (State.writeRun_pre h.fits hi)]
  refine preemphValue_of_zero h.alpha fun j hj => ?_
  have hj' : j < s.n := hj.trans_lt hi
  exact State.operand_of_entry ((State.writeRun_sin h.fits hj').trans (h.sin j hj'))

/-- The window may be negative, and then its product with +0 is -0. -/
theorem win (hi : i < s.n) : IsZero s.params.numFmt (s.writeRun.operand .win i) := by
  rw [State.operand_of_entry (State.writeRun_win h.fits hi), State.operand_of_entry (State.writeRun_hann h.fits hi)]
  exact isZero_fmul_of_isFinite_right ⟨false, h.pre hi⟩ (h.hann i hi)

/-- The index of a twiddle is reduced below F. -/
theorem twiddle_lt : k * i % s.f < s.f := by
  obtain ⟨-, -, hflo, -⟩ := h.config
  exact Nat.mod_lt _ (by omega)

theorem re (hi : i < s.f) : s.writeRun.operand .re i = zeroNum s.params.numFmt false := by
  rw [State.operand_of_entry (State.writeRun_re_im h.fits hi).1]
  refine fsum_of_isZero fun k hk => ?_
  exact isZero_fmul_of_isFinite_right (h.win hk) (h.twiddles _ h.twiddle_lt).1

theorem im (hi : i < s.f) : s.writeRun.operand .im i = zeroNum s.params.numFmt false := by
  rw [State.operand_of_entry (State.writeRun_re_im h.fits hi).2]
  refine fsum_of_isZero fun k hk => ?_
  exact isZero_fmul_of_isFinite_right (isZero_fneg (h.win hk)) (h.twiddles _ h.twiddle_lt).2

theorem amp (hi : i < s.f) : s.writeRun.entry .amp i = some (zeroNum s.params.numFmt false) := by
  rw [State.writeRun_amp h.fits hi, h.re hi, h.im hi, magValue_zero]

theorem mel (hk : k < s.c) : s.writeRun.entry .mel k = some (zeroNum s.params.numFmt false) := by
  obtain ⟨-, -, hflo, hfhi, -⟩ := h.config
  obtain ⟨-, hfMax, -⟩ := capacities_le_of_legal h.legal
  have hnyq : s.nyq < s.f := Nat.div_lt_self (by omega) (by omega)
  rw [State.writeRun_mel h.fits hk]
  refine congrArg some (fsum_of_isZero fun i hi => ?_)
  rw [State.operand_of_entry (State.writeRun_fbw h.fits hk hi)]
  have zero : s.writeRun.operand .amp i = zeroNum s.params.numFmt false :=
    State.operand_of_entry (h.amp (hi.trans hnyq))
  exact isZero_fmul_of_isFinite_right ⟨false, zero⟩ (isFinite_weightOf (by omega))

theorem logmel (hk : k < s.c) : s.writeRun.entry .logmel k = some (infNum s.params.numFmt true) := by
  rw [State.writeRun_logmel h.fits hk, State.operand_of_entry (h.mel hk), logValue_zero]

/-- Channel 0 is one that is not finite. -/
theorem nf : s.writeRun.status.nf = true := by
  obtain ⟨-, -, -, -, hclo, -⟩ := h.config
  exact s.writeRun_nf_iff.2 ⟨0, _, hclo, h.logmel hclo, by simp [isFinite]⟩

end State.ZeroFrame

/-- Settles O45: AMP and MEL are sums of zeros, LOGMEL is the logarithm of zero, and the completion is without error. -/
theorem zeroFrameGivesMinusInfinity : Obligations.ZeroFrameGivesMinusInfinity := by
  intro s hlegal hconfig hsin halpha hhann htwiddles
  have h : s.ZeroFrame := ⟨hlegal, hconfig, hsin, halpha, hhann, htwiddles⟩
  obtain ⟨-, -, -, status, -⟩ := State.finish_bodyOf_frame (by decide) (by decide) h.checks rfl
  exact ⟨_, exec_of_checks (by decide) h.checks, fun i hi => h.amp hi, fun k hk => ⟨h.mel hk, h.logmel hk⟩, h.nf,
    by rw [status], rfl⟩

end Sys2Proof.Machine
end

section
/-! PROOFS. Command words at the bus and in time (family 42_control.md): which words CMD takes (R180), the write set of the
pending command (R182), and the host turns that come before its completion (R186). -/

namespace Sys2Proof.Machine

/-! ### Acceptance (42_control.md R180) -/

/-- While busy, and under the error lock but for its two words, a word written to CMD is dropped. -/
theorem State.accept_eq_drop {s : State} {w : Word}
    (h : s.status.busy = true ∨ s.status.err = true ∧ w ≠ encode .softReset ∧ w ≠ encode .clearStatus) :
    s.accept w = s.drop := by
  rcases s.accept_cases w with ⟨hdrop, -⟩ | ⟨hidle, hlock, -⟩
  · exact hdrop
  · rcases h with hbusy | ⟨herr, hreset, hclear⟩
    · exact absurd (hbusy.symm.trans hidle) (by decide)
    · exact absurd (hlock herr) (by simp [hreset, hclear])

/-- Otherwise it is the pending word, with some delay (log 7). -/
theorem State.accept_eq_pending {s : State} {w : Word} (hidle : s.status.busy = false)
    (h : s.status.err = false ∨ w = encode .softReset ∨ w = encode .clearStatus) :
    ∃ d l n, s.accept w =
      { s with
        pending := some w
        status := { s.status with busy := true, done := false }
        delay := d
        latency := l
        draws := n } := by
  rcases s.accept_cases w with ⟨-, hbusy | ⟨herr, hreset, hclear⟩⟩ | ⟨-, -, taken⟩
  · exact absurd (hbusy.symm.trans hidle) (by decide)
  · exact absurd h (by simp [herr, hreset, hclear])
  · exact taken

/-- A WRITE of CMD is the acceptance of its word. -/
theorem State.hostWrite_cmd (s : State) (w : Word) : s.hostWrite 0x00000008 w = (s.accept w).reply ⟨true, none⟩ :=
  State.hostWrite_regAddr (r := .cmd) rfl

/-! ### Write sets (42_control.md R182) -/

section
variable {s : State} {b : Buffer} {i : Nat}

theorem State.inWriteSet_of_idle (h : s.status.busy = false) : s.inWriteSet b i = false := by
  simp [State.inWriteSet, h]

theorem State.inWriteSet_of_command {cmd : Instr} (hb : s.status.busy = true) (hp : s.pending = some (encode cmd)) :
    s.inWriteSet b i = s.commandWrites cmd b i := by
  simp [State.inWriteSet, hb, hp]

theorem State.inWriteSet_of_no_command {w : Word} (hb : s.status.busy = true) (hp : s.pending = some w)
    (h : ∀ cmd, w ≠ encode cmd) : s.inWriteSet b i = true := by
  cases hd : decodeWord w with
  | error r => simp [State.inWriteSet, hb, hp, hd]
  | ok cmd => exact absurd (eq_encode_of_decodeWord hd) (h cmd)

theorem State.commandWrites_buildFb_iff : s.commandWrites .buildFb b i = true ↔
    (b ∈ [Buffer.fbIstart, .fbIcenter, .fbIend] ∧ i < s.c) ∨ ∃ k, b = .fbw k ∧ k < s.c ∧ i < s.nyq := by
  cases b <;> simp [State.commandWrites]

theorem State.commandWrites_run_iff : s.commandWrites .run b i = true ↔
    (b ∈ [Buffer.hann, .pre, .win] ∧ i < s.n) ∨ (b ∈ [Buffer.re, .im, .amp] ∧ i < s.f) ∨
      (b ∈ [Buffer.mel, .logmel, .fbIstart, .fbIcenter, .fbIend] ∧ i < s.c) ∨
      ∃ k, b = .fbw k ∧ k < s.c ∧ i < s.nyq := by
  cases b <;> simp [State.commandWrites]

/-- The write set of RUN holds those of its stages. -/
theorem State.commandWrites_run_of_stage {cmd : Instr} (h : cmd ∈ runStages)
    (hw : s.commandWrites cmd b i = true) : s.commandWrites .run b i = true := by
  simp only [runStages, List.mem_cons, List.not_mem_nil, or_false] at h
  rcases h with rfl | rfl | rfl | rfl | rfl | rfl | rfl | rfl <;> cases b <;> simp_all [State.commandWrites]

end

/-! ### The turns of the host while a command is pending (42_control.md R186) -/

/-- The word w is pending, d host turns come before its completion (log 7), and the host has no reset in store. -/
structure State.Waiting (s : State) (w : Word) (d : Nat) : Prop where
  busy : s.status.busy = true
  pending : s.pending = some w
  delay : s.delay = d
  noReset : ∀ e ∈ s.events, e ≠ .resetPin ∧ e ≠ .resetInFlight

/-- While a command is pending, a WRITE changes at most DONE, DROPPED and IRQ_EN (20_memory.md R84). -/
theorem State.writeLoc_of_busy {s t : State} {l : Loc} {w : Word} (hb : s.status.busy = true)
    (h : s.writeLoc l w = some t) : ∃ done dropped irq,
      t = { s with status := { s.status with done := done, dropped := dropped }, irqEn := irq } := by
  rcases State.writeLoc_cases h with ⟨-, rfl⟩ | ⟨-, rfl | rfl⟩ | ⟨-, rfl⟩ | ⟨-, rfl, -⟩ | ⟨hidle, -⟩
  · exact ⟨_, _, _, State.accept_eq_drop (.inl hb)⟩
  iterate 4 exact ⟨_, _, _, rfl⟩
  · exact absurd (hb.symm.trans hidle) (by decide)

/-- A run goes on from the state its first step leaves. -/
theorem run_succ_of_step {M : Host.Core} {s t : M.State} (h : M.step s = .next t) (k : Nat) :
    M.run (k + 1) s = M.run k t := by
  rw [Host.Core.run, h]

section
variable {s : State} {w : Word} {d : Nat}

/-- No event but a reset disturbs a pending word or its turns; a WAIT comes back, which is no reset either. -/
theorem State.Waiting.perform (h : s.Waiting w d) {e : HostOp} (he : e ≠ .resetPin ∧ e ≠ .resetInFlight) :
    (s.perform e).Waiting w d := by
  obtain ⟨busy, pending, delay, noReset⟩ := h
  cases e with
  | write a v =>
    rcases s.hostWrite_cases a v with herror | ⟨l, t, -, ht, hok⟩
    · rw [State.perform, herror]; exact ⟨busy, pending, delay, noReset⟩
    · obtain ⟨_, _, _, rfl⟩ := State.writeLoc_of_busy busy ht
      rw [State.perform, hok]; exact ⟨busy, pending, delay, noReset⟩
  | read a =>
    obtain ⟨_, _, hread⟩ := s.hostRead_cases a
    rw [State.perform, hread]; exact ⟨busy, pending, delay, noReset⟩
  | wait =>
    obtain ⟨_, _, hread⟩ := s.hostRead_cases (regAddr .status)
    simp only [State.perform, hread, busy, if_true]
    exact ⟨busy, pending, delay, List.forall_mem_cons.2 ⟨he, noReset⟩⟩
  | resetPin => exact absurd rfl he.1
  | resetInFlight => exact absurd rfl he.2

theorem State.Waiting.hostTurn (h : s.Waiting w d) : s.hostTurn.Waiting w d := by
  unfold State.hostTurn
  cases hev : s.events with
  | nil => exact h
  | cons e rest =>
    obtain ⟨he, hrest⟩ := List.forall_mem_cons.1 (hev ▸ h.noReset)
    have popped : State.Waiting { s with events := rest } w d := ⟨h.busy, h.pending, h.delay, hrest⟩
    exact popped.perform he

/-- With a word pending and host turns left, the step is one host turn with one fewer left. -/
theorem step_of_turns_left (hb : s.status.busy = true) (hd : s.delay = d + 1) :
    step s = .next ({ s with delay := d } : State).hostTurn := by
  simp [step, State.advance, hb, hd]

theorem step_of_idle (h : s.status.busy = false) : step s = .next s.hostTurn := by
  simp [step, State.advance, h]

theorem State.Waiting.step (h : s.Waiting w (d + 1)) : ∃ t, Machine.step s = .next t ∧ t.Waiting w d := by
  have counted : State.Waiting { s with delay := d } w d := ⟨h.busy, h.pending, rfl, h.noReset⟩
  exact ⟨_, step_of_turns_left h.busy h.delay, counted.hostTurn⟩

theorem State.Waiting.completes (h : s.Waiting w 0) :
    ∃ t, Machine.step s = .next t ∧ t.status.busy = false ∧ t.pending = none := by
  obtain ⟨t, ht⟩ := engineStep_isNext (s := s) (by rw [h.pending]; rfl)
  exact ⟨t, (step_of_busy h.busy h.delay).trans ht, engineStep_idle ht⟩

/-- While host turns are left, every step uses up one. -/
theorem State.Waiting.run {k : Nat} (h : s.Waiting w d) (hk : k ≤ d) :
    ∃ t : State, Host.Core.run core k s = .next t ∧ t.Waiting w (d - k) := by
  induction k generalizing s d with
  | zero => exact ⟨s, rfl, h⟩
  | succ k ih =>
    obtain ⟨d, rfl⟩ := Nat.exists_eq_add_one_of_ne_zero (Nat.ne_zero_of_lt hk)
    obtain ⟨t, hstep, ht⟩ := h.step
    rw [run_succ_of_step (M := core) hstep, Nat.add_sub_add_right]
    exact ih ht (Nat.le_of_succ_le_succ hk)

/-- The step after the last host turn is the completion. -/
theorem State.Waiting.run_completes (h : s.Waiting w d) :
    ∃ t : State, Host.Core.run core (d + 1) s = .next t ∧ t.status.busy = false ∧ t.pending = none := by
  induction d generalizing s with
  | zero =>
    obtain ⟨t, hstep, idle⟩ := h.completes
    exact ⟨t, run_succ_of_step (M := core) hstep 0, idle⟩
  | succ d ih =>
    obtain ⟨t, hstep, ht⟩ := h.step
    rw [run_succ_of_step (M := core) hstep]
    exact ih ht

end

end Sys2Proof.Machine
end

section
/-! PROOFS. RUN and its stages (42_control.md R187): the tables of the filter bank after RUN, what RUN leaves in memory, and
that the checks of every stage pass in the state the stages before it leave. -/

namespace Sys2Proof.Machine

/-! ### The memory after RUN -/

theorem Buffer.covers_addr {b : Buffer} {n j : Nat} (h : j < n) : b.covers n (b.addr j) :=
  ⟨Nat.le_add_right .., Nat.add_lt_add_left h _⟩

theorem Buffer.eq_addr_of_covers {b : Buffer} {n a : Nat} (h : b.covers n a) : ∃ j, j < n ∧ a = b.addr j := by
  obtain ⟨lo, hi⟩ := h
  exact ⟨a - b.base, by omega, by simp only [Buffer.addr]; omega⟩

/-- The address of an entry that is in the write set of a command. -/
def State.writeSetAddr (s : State) (cmd : Instr) (a : Nat) : Prop :=
  ∃ b j, s.commandWrites cmd b j = true ∧ a = b.addr j

theorem State.keepsInputs.commandWrites {s t : State} (h : s.keepsInputs t) (cmd : Instr) (b : Buffer) (j : Nat) :
    t.commandWrites cmd b j = s.commandWrites cmd b j := by
  obtain ⟨-, -, n, f, c, nyq⟩ := h.config
  unfold State.commandWrites
  rw [n, f, c, nyq]

/-- An address outside the write set is none of the first n entries of a buffer that the command writes. -/
theorem State.not_covers_of_not_writeSetAddr {s : State} {cmd : Instr} {a : Nat} (ha : ¬ s.writeSetAddr cmd a)
    (b : Buffer) {n : Nat} (h : ∀ j, j < n → s.commandWrites cmd b j = true) : ¬ b.covers n a := by
  intro covered
  obtain ⟨j, hj, rfl⟩ := Buffer.eq_addr_of_covers covered
  exact ha ⟨b, j, h j hj, rfl⟩

/-- The body of a command leaves every address outside its write set (42_control.md R182). -/
theorem State.bodyOf_keepsMem (s : State) {cmd : Instr} (hreset : cmd ≠ .softReset) (hrun : cmd ≠ .run) :
    s.keepsMem (s.bodyOf cmd) (s.writeSetAddr cmd) := by
  intro a ha
  have outside := fun b n h => State.not_covers_of_not_writeSetAddr ha b (n := n) h
  cases cmd with
  | softReset => exact absurd rfl hreset
  | run => exact absurd rfl hrun
  | nop | clearStatus => rfl
  | buildHann => exact Mem.read_fill_of_not_covers (outside .hann s.n (by simp [State.commandWrites]))
  | preemph => exact Mem.read_fill_of_not_covers (outside .pre s.n (by simp [State.commandWrites]))
  | window => exact Mem.read_fill_of_not_covers (outside .win s.n (by simp [State.commandWrites]))
  | mag => exact Mem.read_fill_of_not_covers (outside .amp s.f (by simp [State.commandWrites]))
  | melfb => exact Mem.read_fill_of_not_covers (outside .mel s.c (by simp [State.commandWrites]))
  | log => exact Mem.read_fill_of_not_covers (outside .logmel s.c (by simp [State.commandWrites]))
  | dft =>
    exact (Mem.read_fill_of_not_covers (outside .im s.f (by simp [State.commandWrites]))).trans
      (Mem.read_fill_of_not_covers (outside .re s.f (by simp [State.commandWrites])))
  | buildFb =>
    refine s.writeFb_keepsMem a ?_
    rintro (h | h | h | ⟨k, hk, h⟩)
    · exact outside .fbIstart s.c (by simp [State.commandWrites]) h
    · exact outside .fbIcenter s.c (by simp [State.commandWrites]) h
    · exact outside .fbIend s.c (by simp [State.commandWrites]) h
    · exact outside (.fbw k) s.nyq (by simp [State.commandWrites, hk]) h

/-- Stages of RUN leave every address outside RUN's write set. -/
theorem State.after_keepsMem {l : List Instr} (h : ∀ i ∈ l, i ∈ runStages) (s : State) :
    s.keepsMem (s.after l) (s.writeSetAddr .run) := by
  induction l generalizing s with
  | nil => exact fun _ _ => rfl
  | cons i l ih =>
    obtain ⟨hi, hl⟩ := List.forall_mem_cons.1 h
    have not_reset : i ≠ .softReset := by rintro rfl; revert hi; decide
    have not_run : i ≠ .run := by rintro rfl; revert hi; decide
    have inputs := s.bodyOf_keepsInputs not_reset
    intro a ha
    have rest : ¬ (s.bodyOf i).writeSetAddr .run a := by simpa [State.writeSetAddr, inputs.commandWrites] using ha
    have first : ¬ s.writeSetAddr i a := fun ⟨b, j, hw, haddr⟩ =>
      ha ⟨b, j, State.commandWrites_run_of_stage hi hw, haddr⟩
    exact (ih hl _ a rest).trans (s.bodyOf_keepsMem not_reset not_run a first)

theorem State.writeRun_keepsMem (s : State) : s.keepsMem s.writeRun (s.writeSetAddr .run) :=
  State.after_keepsMem (l := runStages) (fun _ h => h) s

/-- The index tables after RUN (40_tables.md R126). -/
theorem State.writeRun_fbIndices {s : State} (hs : s.FitsMap) {k : Nat} (hk : k < s.c) :
    s.writeRun.entry .fbIcenter k = some (BitVec.ofNat 64 (iCenter s.params s.nyq s.c k)) ∧
    s.writeRun.entry .fbIstart k = some (BitVec.ofNat 64 (iStart s.params s.nyq s.c k)) ∧
    s.writeRun.entry .fbIend k = some (BitVec.ofNat 64 (iEnd s.params s.nyq s.c k)) := by
  obtain ⟨u, inputs, written, -⟩ := State.writeRun_stage hs [.buildHann] .buildFb _ rfl
  obtain ⟨params, -, -, -, c, nyq⟩ := inputs.config
  obtain ⟨start, center, stop, -⟩ := State.writeFb_entries (s := u) (nyq ▸ hs.nyq) (c ▸ hs.c) (c ▸ hk)
  have hk' : k < 2 ^ 24 := hk.trans_le hs.c
  rw [written .fbIcenter k (by decide) hk', written .fbIstart k (by decide) hk', written .fbIend k (by decide) hk',
    ← params, ← nyq, ← c]
  exact ⟨center, start, stop⟩

/-! ### The checks of RUN and of its stages -/

theorem State.keepsInputs.runConfig {s t : State} (h : s.keepsInputs t) (hs : s.runConfig) : t.runConfig := by
  obtain ⟨params, -, n, f, c, -⟩ := h.config
  unfold State.runConfig
  rw [params, n, f, c]
  exact hs

/-- A descriptor that was written for the length L a command needs. -/
theorem State.need_of_ofLen {s : State} {d : DescName} {l : Nat} (hl : l < 2 ^ 32) (h : s.desc d = Desc.ofLen l) :
    s.need d l = none := by
  rw [State.need_eq_none, h]
  exact ⟨rfl, Nat.mod_eq_of_lt hl⟩

/-- A filter bank that was built for the NYQ and the C a command needs. -/
theorem State.needFb_of_built {s : State} (hc : s.c < 2 ^ 16)
    (h : s.fbDesc = ⟨true, BitVec.ofNat 16 s.c, BitVec.ofNat 32 s.nyq⟩) : s.needFb s.nyq s.c = none := by
  rw [State.needFb_eq_none, h]
  exact ⟨rfl, Nat.mod_eq_of_lt s.nyq_lt, Nat.mod_eq_of_lt hc⟩

section
variable {s : State} (h : s.runConfig)
include h

theorem State.runConfig.checkN {lo : Nat} (hlo : lo ≤ 2) : s.checkN lo = none := by
  obtain ⟨hnlo, hnhi, -⟩ := h
  exact State.checkN_eq_none.2 ⟨hlo.trans hnlo, hnhi⟩

theorem State.runConfig.checkF {lo : Nat} (hlo : lo ≤ 2) : s.checkF lo = none := by
  obtain ⟨-, -, hflo, hfhi, -⟩ := h
  exact State.checkF_eq_none.2 ⟨hlo.trans hflo, hfhi⟩

theorem State.runConfig.checkC : s.checkC = none := by
  obtain ⟨-, -, -, -, hc⟩ := h
  exact State.checkC_eq_none.2 hc

theorem State.runConfig.c_lt (hlegal : s.params.legal = true) : s.c < 2 ^ 16 := by
  obtain ⟨-, -, -, -, -, hc⟩ := h
  obtain ⟨-, -, hcMax⟩ := capacities_le_of_legal hlegal
  omega

theorem State.runConfig.checkRun (hsin : s.samplesWritten) : s.checkRun = none :=
  Option.or_eq_none_iff.2 ⟨h.checkN (Nat.le_refl 2), Option.or_eq_none_iff.2 ⟨h.checkF (Nat.le_refl 2),
    Option.or_eq_none_iff.2 ⟨h.checkC, State.checkSin_eq_none.2 hsin⟩⟩⟩

end

/-- Stages of RUN leave the samples written. -/
theorem State.after_samplesWritten {s : State} (hs : s.FitsMap) {l : List Instr}
    (hsin : ∀ i ∈ l, writesBuffer i .sin = false) (h : s.samplesWritten) : (s.after l).samplesWritten := by
  have not_reset : ∀ i ∈ l, i ≠ .softReset := by rintro _ hi rfl; simpa [writesBuffer] using hsin _ hi
  obtain ⟨-, -, n, -⟩ := (State.after_keepsInputs not_reset s).config
  intro i hi
  rw [n] at hi
  rw [State.sinW, State.after_entry hsin (hi.trans_le hs.n) hs]
  exact h i hi

/-- In the state that the stages before it leave, the checks of every stage of RUN pass: it has the configuration of `s`,
and the descriptors are those that the stages before it wrote. -/
theorem State.checkOf_stages {s : State} (hlegal : s.params.legal = true) (hconfig : s.runConfig)
    (hsin : s.samplesWritten) :
    s.checkOf .buildHann = none ∧
    (s.after [.buildHann]).checkOf .buildFb = none ∧
    (s.after [.buildHann, .buildFb]).checkOf .preemph = none ∧
    (s.after [.buildHann, .buildFb, .preemph]).checkOf .window = none ∧
    (s.after [.buildHann, .buildFb, .preemph, .window]).checkOf .dft = none ∧
    (s.after [.buildHann, .buildFb, .preemph, .window, .dft]).checkOf .mag = none ∧
    (s.after [.buildHann, .buildFb, .preemph, .window, .dft, .mag]).checkOf .melfb = none ∧
    (s.after [.buildHann, .buildFb, .preemph, .window, .dft, .mag, .melfb]).checkOf .log = none := by
  have fits := State.fitsMap_of_runConfig hlegal hconfig
  have config : ∀ l, (∀ i ∈ l, i ≠ .softReset) → (s.after l).runConfig :=
    fun l hl => (State.after_keepsInputs hl s).runConfig hconfig
  refine ⟨hconfig.checkN (Nat.le_refl 2), Option.or_eq_none_iff.2 ⟨?fbF, ?fbC⟩,
    Option.or_eq_none_iff.2 ⟨?preN, State.checkSin_eq_none.2 ?preSin⟩,
    Option.or_eq_none_iff.2 ⟨?winN, Option.or_eq_none_iff.2 ⟨?winPre, ?winHann⟩⟩,
    Option.or_eq_none_iff.2 ⟨?dftF, ?dftWin⟩, Option.or_eq_none_iff.2 ⟨?magF, ?magDft⟩,
    Option.or_eq_none_iff.2 ⟨?melF, Option.or_eq_none_iff.2 ⟨?melC, Option.or_eq_none_iff.2 ⟨?melAmp, ?melFb⟩⟩⟩,
    Option.or_eq_none_iff.2 ⟨?logC, ?logMel⟩⟩
  case preN | winN => exact (config _ (by decide)).checkN (by decide)
  case fbF | dftF | magF | melF => exact (config _ (by decide)).checkF (by decide)
  case fbC | melC | logC => exact (config _ (by decide)).checkC
  case preSin => exact State.after_samplesWritten fits (by decide) hsin
  case winPre | winHann | dftWin | magDft | melAmp | logMel =>
    exact State.need_of_ofLen (BitVec.isLt _)
      (by simp [State.after, State.bodyOf, State.desc, State.n, State.f, State.c])
  case melFb =>
    exact State.needFb_of_built (by simpa [State.after, State.bodyOf, State.c] using hconfig.c_lt hlegal)
      (by simp [State.after, State.bodyOf, State.c, State.nyq, State.f])

/-! ### The stages, issued one after another -/

/-- The completion of the command before it makes no difference to a command's checks and writes: both leave BUSY, DONE,
LASTOP and PENDING to `finish`. -/
theorem exec_after_finish {s : State} {i : Instr} (hi : i ∈ runStages) (h : s.checkOf i = none) (op : BitVec 8) :
    exec i (s.finish op) = .next ((s.bodyOf i).finish i.op) := by
  simp only [runStages, List.mem_cons, List.not_mem_nil, or_false] at hi
  have not_reset : i ≠ .softReset := by rintro rfl; simp at hi
  have check : (s.finish op).checkOf i = s.checkOf i := by
    rcases hi with rfl | rfl | rfl | rfl | rfl | rfl | rfl | rfl <;> rfl
  have body : ((s.finish op).bodyOf i).finish i.op = (s.bodyOf i).finish i.op := by
    rcases hi with rfl | rfl | rfl | rfl | rfl | rfl | rfl | rfl <;> rfl
  rw [exec_of_checks not_reset (check.trans h), body]

end Sys2Proof.Machine
end

section
/-! PROOFS. The statements about the command interface (family 42_control.md), settled. -/

namespace Sys2Proof.Machine

/-- Settles O44: every stage's checks pass after the stages before it, and a completion makes no difference to the next
stage, so that eight completions are eight bodies and one completion. -/
theorem runEqualsTheEightCommands : Obligations.RunEqualsTheEightCommands := by
  intro s hlegal hconfig hsin
  obtain ⟨hann, fb, pre, win, dft, mag, mel, log⟩ := State.checkOf_stages hlegal hconfig hsin
  refine ⟨_, _, _, _, _, _, _, _, exec_of_checks (by decide) hann, exec_after_finish (by decide) fb _,
    exec_after_finish (by decide) pre _, exec_after_finish (by decide) win _, exec_after_finish (by decide) dft _,
    exec_after_finish (by decide) mag _, exec_after_finish (by decide) mel _, exec_after_finish (by decide) log _,
    ?status, exec_of_checks (i := .run) (by decide) (hconfig.checkRun hsin)⟩
  case status =>
    simp only [List.forall_mem_cons]
    exact ⟨⟨rfl, rfl⟩, ⟨rfl, rfl⟩, ⟨rfl, rfl⟩, ⟨rfl, rfl⟩, ⟨rfl, rfl⟩, ⟨rfl, rfl⟩, ⟨rfl, rfl⟩, ⟨rfl, rfl⟩, by simp⟩

/-- Settles O43: each buffer by its stage, the frame by RUN's write set, and NF by the last stage. -/
theorem runCompletes : Obligations.RunCompletes := by
  intro s hlegal hconfig hsin
  have fits := State.fitsMap_of_runConfig hlegal hconfig
  have check : s.checkOf .run = none := hconfig.checkRun hsin
  obtain ⟨-, inputs, host, status⟩ := State.finish_bodyOf_frame (by decide) (by decide) check rfl
  refine ⟨_, _, exec_of_checks (by decide) check,
    fun i hi => ⟨State.writeRun_sin fits hi, State.writeRun_hann fits hi, State.writeRun_pre fits hi,
      State.writeRun_win fits hi⟩,
    fun i hi => and_assoc.1 ⟨State.writeRun_re_im fits hi, State.writeRun_amp fits hi⟩,
    fun k hk => ?channels, s.writeRun_nf_iff, ?descN, ?descF, ?descC, rfl, ?ch, ?len, ?mem, inputs, host, status⟩
  case channels =>
    obtain ⟨center, start, stop⟩ := State.writeRun_fbIndices fits hk
    exact ⟨center, start, stop, fun i hi => State.writeRun_fbw fits hk hi, State.writeRun_mel fits hk,
      State.writeRun_logmel fits hk⟩
  case descN =>
    have len : Desc.ofLen s.n = ⟨true, 0, s.cfgN⟩ := Desc.ofLen_toNat _
    simp [State.bodyOf, len]
  case descF =>
    have len : Desc.ofLen s.f = ⟨true, 0, s.cfgF⟩ := Desc.ofLen_toNat _
    simp [State.bodyOf, len]
  case descC =>
    have len : Desc.ofLen s.c = ⟨true, 0, s.cfgC⟩ := Desc.ofLen_toNat _
    simp [State.bodyOf, len]
  case ch => exact Nat.mod_eq_of_lt (hconfig.c_lt hlegal)
  case len => exact Nat.mod_eq_of_lt s.nyq_lt
  case mem =>
    intro a ha
    refine s.writeRun_keepsMem a fun ⟨b, j, hw, haddr⟩ => ha ?_
    subst haddr
    rcases State.commandWrites_run_iff.1 hw with ⟨hb, hj⟩ | ⟨hb, hj⟩ | ⟨hb, hj⟩ | ⟨k, rfl, hk, hj⟩
    · exact .inl ⟨b, hb, Buffer.covers_addr hj⟩
    · exact .inr (.inl ⟨b, hb, Buffer.covers_addr hj⟩)
    · exact .inr (.inr (.inl ⟨b, hb, Buffer.covers_addr hj⟩))
    · exact .inr (.inr (.inr ⟨k, hk, Buffer.covers_addr hj⟩))

/-- Settles O14: the write set of a pending command is `State.commandWrites` of it, row by row; a word that is no command
has every entry. -/
theorem writeSetsOfPendingCommands : Obligations.WriteSetsOfPendingCommands := by
  intro s w b i
  refine ⟨State.inWriteSet_of_idle, fun hb hp => ?_⟩
  have row : ∀ cmd, w = encode cmd → s.inWriteSet b i = s.commandWrites cmd b i :=
    fun cmd hw => State.inWriteSet_of_command hb (hw ▸ hp)
  refine ⟨?none, fun h => ?hann, fun h => ?fb, fun h => ?pre, fun h => ?win, fun h => ?dft, fun h => ?mag,
    fun h => ?mel, fun h => ?log, fun h => ?run, ?every⟩
  case none =>
    rintro (h | h)
    · exact row .nop h
    · exact row .clearStatus h
  case hann => rw [row .buildHann h]; simp [State.commandWrites]
  case fb => rw [row .buildFb h]; exact State.commandWrites_buildFb_iff
  case pre => rw [row .preemph h]; simp [State.commandWrites]
  case win => rw [row .window h]; simp [State.commandWrites]
  case dft => rw [row .dft h]; simp [State.commandWrites]
  case mag => rw [row .mag h]; simp [State.commandWrites]
  case mel => rw [row .melfb h]; simp [State.commandWrites]
  case log => rw [row .log h]; simp [State.commandWrites]
  case run => rw [row .run h]; exact State.commandWrites_run_iff
  case every =>
    rintro (h | h)
    · exact row .softReset h
    · exact State.inWriteSet_of_no_command hb hp h

/-- Settles O17: the two ways of acceptance, at the address of CMD. -/
theorem commandAcceptance : Obligations.CommandAcceptance := by
  intro s w
  rw [State.hostWrite_cmd]
  refine ⟨fun hb => ?busy, fun _ herr hreset hclear => ?locked, fun hidle h => ?accepted⟩
  case busy => rw [State.accept_eq_drop (.inl hb)]; rfl
  case locked => rw [State.accept_eq_drop (.inr ⟨herr, hreset, hclear⟩)]; rfl
  case accepted =>
    obtain ⟨d, l, n, taken⟩ := State.accept_eq_pending hidle h
    exact ⟨d, l, n, by rw [taken]; rfl⟩

/-- Settles O18: an error entry sets ERR, of the commands only CLEAR_STATUS and SOFT_RESET write it otherwise, and no WRITE
does. -/
theorem errorLockIsLeftOnlyByClearOrReset : Obligations.ErrorLockIsLeftOnlyByClearOrReset := by
  intro s t ht herr hclear
  have changed : t.status.err ≠ s.status.err := by rw [herr, hclear]; decide
  rcases step_effect ht with ⟨hb, hdelay, h⟩ | same | ⟨htakes, -⟩ | ⟨a, w, l, u, v, -, -, same, hwrite, same'⟩
  · left
    refine ⟨hb, hdelay, ?_⟩
    rcases engineStep_effect h with ⟨op, e, rfl⟩ | ⟨hp, -⟩ | ⟨i, hi, hp, rfl⟩
    · exact absurd hclear (by simp)
    · exact .inr hp
    · by_cases hc : i = .clearStatus
      · subst hc; exact .inl hp
      · obtain ⟨⟨_, hstatus⟩, -⟩ := s.bodyOf_status hi hc
        exact absurd (congrArg Status.err hstatus) changed
  · obtain ⟨_, _, _, _, _, rfl⟩ := same; exact absurd rfl changed
  · exact .inr htakes
  · obtain ⟨_, _, _, _, _, rfl⟩ := same
    obtain ⟨_, _, _, _, _, rfl⟩ := same'
    obtain ⟨⟨_, _, _, hstatus⟩, -⟩ := State.writeLoc_keeps hwrite
    exact absurd (congrArg Status.err hstatus) changed

/-- Settles O24: every host turn uses up one of `delay`, and the step after the last is the completion. -/
theorem pendingCommandCompletes : Obligations.PendingCommandCompletes := by
  intro s w hb hp hevents
  have waiting : s.Waiting w s.delay := ⟨hb, hp, rfl, hevents⟩
  refine ⟨fun k hk => ?_, waiting.run_completes⟩
  obtain ⟨t, hrun, ht⟩ := waiting.run hk
  exact ⟨t, hrun, ht.busy, ht.pending⟩

/-- Settles O32: NOP has no checks and an empty body, and its word is none of the two that the error lock lets through. -/
theorem nopCompletes : Obligations.NopCompletes := by
  intro s
  have check : s.checkOf .nop = none := rfl
  refine ⟨⟨_, exec_of_checks (by decide) check, rfl, State.finish_bodyOf_frame (by decide) (by decide) check rfl⟩,
    fun herr => ?_⟩
  rw [State.hostWrite_cmd, State.accept_eq_drop (.inr ⟨herr, by decide, by decide⟩)]

/-- Settles O33: CLEAR_STATUS has no checks, and its body is `State.clearError`. -/
theorem clearStatusCompletes : Obligations.ClearStatusCompletes := by
  intro s
  exact ⟨_, exec_of_checks (i := .clearStatus) (by decide) rfl, rfl, rfl, rfl, rfl, s.bodyOf_keepsDescs .clearStatus,
    s.bodyOf_keepsInputs (i := .clearStatus) (by decide), s.bodyOf_keepsHost (i := .clearStatus) (by decide)⟩

/-- Settles O34: SOFT_RESET has no checks, and what it leaves is `State.toReset`. -/
theorem softResetCompletes : Obligations.SoftResetCompletes := by
  intro s
  refine ⟨_, exec_softReset s, rfl, rfl, rfl, rfl, Status.word_reset, rfl, rfl, fun d => ?_, rfl, fun a => rfl⟩
  cases d <;> rfl

/-- Settles O25: the completion by `step_of_busy` and `engineStep_of_ok`, the host's turns by the lemmas of the step. -/
theorem stepRunsTheDecodedCommand : Obligations.StepRunsTheDecodedCommand := by
  intro s
  refine ⟨fun w i hb hd hp hi => (step_of_busy hb hd).trans (engineStep_of_ok hp hi),
    fun d hb hd => step_of_turns_left hb hd, step_of_idle, fun e rest hev => ?event, fun hev => ?nothing⟩
  case event => simp only [State.hostTurn, hev]
  case nothing => simp only [State.hostTurn, hev]

end Sys2Proof.Machine
end

section
/-! PROOFS. How a command fails (family 60_exceptions.md): the first check that raises decides the error entry (R204,
R205), the errors each check raises (R200 to R203), and the causes of the interrupt (R210). -/

namespace Sys2Proof.Machine

/-! ### The first failing check -/

/-- A command with a failing check ends in the error entry of its first error; SOFT_RESET has no check. -/
theorem exec_of_error {i : Instr} {s : State} {e : CmdError} (h : s.checkOf i = some e) :
    exec i s = .next (s.errorEntry i.op e) := by
  have hi : i ≠ .softReset := by rintro rfl; cases h
  rw [exec_eq_complete hi, State.complete_of_error h]

/-- The checks of a command are a chain of `Option.or`: one that raises hides what stands after it. -/
theorem raises_first {check rest : Option CmdError} {e : CmdError} (h : check = some e) : check.or rest = some e :=
  Option.or_eq_some_iff.2 (.inl h)

/-- One that passes leaves the decision to what stands after it. -/
theorem raises_later {check rest : Option CmdError} {e : CmdError} (hpass : check = none) (h : rest = some e) :
    check.or rest = some e :=
  Option.or_eq_some_iff.2 (.inr ⟨hpass, h⟩)

/-! ### The errors of each check -/

section
variable {s : State} {e : CmdError} {lo l c : Nat} {d : DescName}

theorem State.checkN_eq_some_iff :
    s.checkN lo = some e ↔ ¬ (lo ≤ s.n ∧ s.n ≤ s.params.nMax) ∧ e = ⟨.config, 0x10⟩ := by
  simp only [State.checkN, Option.ite_none_right_eq_some, Option.some.injEq, not_and_or, not_le, @eq_comm _ e]

theorem State.checkF_eq_some_iff :
    s.checkF lo = some e ↔ ¬ (lo ≤ s.f ∧ s.f ≤ s.params.fMax) ∧ e = ⟨.config, 0x11⟩ := by
  simp only [State.checkF, Option.ite_none_right_eq_some, Option.some.injEq, not_and_or, not_le, @eq_comm _ e]

theorem State.checkC_eq_some_iff :
    s.checkC = some e ↔ ¬ (1 ≤ s.c ∧ s.c ≤ s.params.cMax) ∧ e = ⟨.config, 0x12⟩ := by
  simp only [State.checkC, Option.ite_none_right_eq_some, Option.some.injEq, not_and_or, not_le, @eq_comm _ e]

theorem State.need_eq_some_iff :
    s.need d l = some e ↔ (s.desc d).fails l (BitVec.ofNat 64 d.number) e := by
  unfold State.need Desc.fails
  cases (s.desc d).v <;> simp [@eq_comm _ e]

theorem State.needFb_eq_some_iff :
    s.needFb l c = some e ↔
      (s.fbDesc.v = false ∧ e = ⟨.notReady, 0x21⟩) ∨
      (s.fbDesc.v = true ∧ (s.fbDesc.len.toNat ≠ l ∨ s.fbDesc.ch.toNat ≠ c) ∧ e = ⟨.length, 0x21⟩) := by
  unfold State.needFb
  cases s.fbDesc.v <;> simp [@eq_comm _ e]

end

/-! ### No check raises E_ILLEGAL_CMD -/

/-- Only the decoder raises E_ILLEGAL_CMD (60_exceptions.md R200): a check's error has another code. -/
def LegalCommandCheck (check : Option CmdError) : Prop := ∀ e, check = some e → e.code ≠ .illegalCmd

theorem legalCommandCheck_none : LegalCommandCheck none := fun _ h => nomatch h

theorem LegalCommandCheck.or {check rest : Option CmdError} (h : LegalCommandCheck check)
    (h' : LegalCommandCheck rest) : LegalCommandCheck (check.or rest) := by
  intro e he
  rcases Option.or_eq_some_iff.1 he with hfirst | ⟨-, hlater⟩
  · exact h e hfirst
  · exact h' e hlater

section
variable (s : State)

theorem State.legalCommandCheck_checkN (lo : Nat) : LegalCommandCheck (s.checkN lo) := by
  intro e he
  obtain ⟨-, rfl⟩ := State.checkN_eq_some_iff.1 he
  decide

theorem State.legalCommandCheck_checkF (lo : Nat) : LegalCommandCheck (s.checkF lo) := by
  intro e he
  obtain ⟨-, rfl⟩ := State.checkF_eq_some_iff.1 he
  decide

theorem State.legalCommandCheck_checkC : LegalCommandCheck s.checkC := by
  intro e he
  obtain ⟨-, rfl⟩ := State.checkC_eq_some_iff.1 he
  decide

theorem State.legalCommandCheck_need (d : DescName) (l : Nat) : LegalCommandCheck (s.need d l) := by
  intro e he
  rcases State.need_eq_some_iff.1 he with ⟨-, rfl⟩ | ⟨-, -, rfl⟩ <;> simp

theorem State.legalCommandCheck_needFb (l c : Nat) : LegalCommandCheck (s.needFb l c) := by
  intro e he
  rcases State.needFb_eq_some_iff.1 he with ⟨-, rfl⟩ | ⟨-, -, rfl⟩ <;> simp

theorem State.legalCommandCheck_checkSin : LegalCommandCheck s.checkSin := by
  intro e he
  obtain ⟨j, -, rfl⟩ := Option.map_eq_some_iff.1 he
  simp

/-- Every command's checks, one by one. -/
theorem State.legalCommandCheck_checkOf (i : Instr) : LegalCommandCheck (s.checkOf i) := by
  have n := s.legalCommandCheck_checkN
  have f := s.legalCommandCheck_checkF
  have c := s.legalCommandCheck_checkC
  have need := s.legalCommandCheck_need
  have sin := s.legalCommandCheck_checkSin
  cases i with
  | nop | softReset | clearStatus => exact legalCommandCheck_none
  | buildHann => exact n 2
  | buildFb => exact (f 2).or c
  | preemph => exact (n 0).or sin
  | window => exact (n 2).or ((need .pre _).or (need .hann _))
  | dft => exact (f 1).or (need .win _)
  | mag => exact (f 1).or (need .dft _)
  | melfb => exact (f 2).or (c.or ((need .amp _).or (s.legalCommandCheck_needFb _ _)))
  | log => exact c.or (need .mel _)
  | run => exact (n 2).or ((f 2).or (c.or sin))

end

theorem ErrCode.byte_mem_of_ne_illegalCmd {c : ErrCode} (h : c ≠ .illegalCmd) :
    c.byte ∈ [0x02#8, 0x03#8, 0x04#8, 0x05#8] := by
  cases c with
  | illegalCmd => exact absurd rfl h
  | config | notReady | length | uninit => decide

/-! ### What an error entry and a body make of the state -/

/-- Under the error lock an error entry records no second error (10_state.md R40). -/
theorem State.errorEntry_of_err {s : State} (h : s.status.err = true) (op : BitVec 8) (e : CmdError) :
    s.errorEntry op e = { s with status := { s.status with lastop := op, busy := false }, pending := none } := by
  simp [State.errorEntry, h]

theorem State.errorEntry_keepsHost (s : State) (op : BitVec 8) (e : CmdError) : s.keepsHost (s.errorEntry op e) :=
  ⟨rfl, rfl, rfl, rfl, rfl⟩

/-- No command's writes set ERR: only the error entry does. -/
theorem State.err_of_bodyOf_err {s : State} {i : Instr} (h : (s.bodyOf i).status.err = true) : s.status.err = true := by
  by_cases hr : i = .softReset
  · subst hr; cases h
  by_cases hc : i = .clearStatus
  · subst hc; cases h
  obtain ⟨⟨nf, hstatus⟩, -⟩ := s.bodyOf_status hr hc
  rwa [hstatus] at h

/-! ### The interrupt -/

theorem State.irq_of_no_cause {s : State} (hdone : s.status.done = false) (herr : s.status.err = false) :
    s.irq = false := by
  simp [State.irq, hdone, herr]

theorem State.irq_of_masked {s : State} (h : s.irqEn = false) : s.irq = false := by
  simp [State.irq, h]

end Sys2Proof.Machine
end

section
/-! PROOFS. The statements about errors and the interrupt (family 60_exceptions.md), settled. -/

namespace Sys2Proof.Machine

/-- Settles O28: a command's checks begin with those of N, F and C, in this order, so the first of them out of range
decides. -/
theorem configurationRangeErrors : Obligations.ConfigurationRangeErrors := by
  intro s
  have badN {lo : Nat} (h : ¬ (lo ≤ s.n ∧ s.n ≤ s.params.nMax)) := State.checkN_eq_some_iff.2 ⟨h, rfl⟩
  have badF {lo : Nat} (h : ¬ (lo ≤ s.f ∧ s.f ≤ s.params.fMax)) := State.checkF_eq_some_iff.2 ⟨h, rfl⟩
  refine ⟨fun hn => ?n, fun hn => ?preemph, fun hf => ?f, fun hf => ?fTwo, fun hc => ?c⟩
  case n =>
    exact ⟨exec_of_error (i := .buildHann) (badN hn), exec_of_error (i := .window) (raises_first (badN hn)),
      exec_of_error (i := .run) (raises_first (badN hn))⟩
  case preemph => exact exec_of_error (i := .preemph) (raises_first (badN fun ⟨_, h⟩ => hn h))
  case f =>
    exact ⟨exec_of_error (i := .dft) (raises_first (badF hf)), exec_of_error (i := .mag) (raises_first (badF hf))⟩
  case fTwo =>
    refine ⟨exec_of_error (i := .buildFb) (raises_first (badF hf)),
      exec_of_error (i := .melfb) (raises_first (badF hf)), fun hlo hhi => exec_of_error (i := .run) ?_⟩
    exact raises_later (State.checkN_eq_none.2 ⟨hlo, hhi⟩) (raises_first (badF hf))
  case c =>
    have badC := State.checkC_eq_some_iff.2 ⟨hc, rfl⟩
    refine ⟨exec_of_error (i := .log) (raises_first badC), fun hflo hfhi => ?_⟩
    have goodF : s.checkF 2 = none := State.checkF_eq_none.2 ⟨hflo, hfhi⟩
    refine ⟨exec_of_error (i := .buildFb) (raises_later goodF badC),
      exec_of_error (i := .melfb) (raises_later goodF (raises_first badC)),
      fun hlo hhi => exec_of_error (i := .run) ?_⟩
    exact raises_later (State.checkN_eq_none.2 ⟨hlo, hhi⟩) (raises_later goodF (raises_first badC))

/-- Settles O29: with the configuration in range the descriptors' checks are next, in the order of R203's table. -/
theorem descriptorErrors : Obligations.DescriptorErrors := by
  intro s e
  refine ⟨fun hlo hhi => ?window, fun hlo hhi => ?spectrum, fun hflo hfhi hclo hchi => ?melfb,
    fun hlo hhi hmel => ?log⟩
  case window =>
    have goodN : s.checkN 2 = none := State.checkN_eq_none.2 ⟨hlo, hhi⟩
    refine ⟨fun hpre => exec_of_error (i := .window) (raises_later goodN ?_),
      fun hpre hhann => exec_of_error (i := .window) (raises_later goodN ?_)⟩
    · exact raises_first (State.need_eq_some_iff.2 hpre)
    · exact raises_later (State.need_eq_none.2 hpre) (State.need_eq_some_iff.2 hhann)
  case spectrum =>
    have goodF : s.checkF 1 = none := State.checkF_eq_none.2 ⟨hlo, hhi⟩
    exact ⟨fun hwin => exec_of_error (i := .dft) (raises_later goodF (State.need_eq_some_iff.2 hwin)),
      fun hdft => exec_of_error (i := .mag) (raises_later goodF (State.need_eq_some_iff.2 hdft))⟩
  case melfb =>
    have goodF : s.checkF 2 = none := State.checkF_eq_none.2 ⟨hflo, hfhi⟩
    have goodC : s.checkC = none := State.checkC_eq_none.2 ⟨hclo, hchi⟩
    refine ⟨fun hamp => exec_of_error (i := .melfb) (raises_later goodF (raises_later goodC ?_)),
      fun hamp hfb => exec_of_error (i := .melfb) (raises_later goodF (raises_later goodC ?_))⟩
    · exact raises_first (State.need_eq_some_iff.2 hamp)
    · exact raises_later (State.need_eq_none.2 hamp) (State.needFb_eq_some_iff.2 hfb)
  case log =>
    have goodC : s.checkC = none := State.checkC_eq_none.2 ⟨hlo, hhi⟩
    exact exec_of_error (i := .log) (raises_later goodC (State.need_eq_some_iff.2 hmel))

/-- Settles O30: the sample check is the last of PREEMPH and of RUN, and finds the lowest unwritten index. -/
theorem unwrittenSampleErrors : Obligations.UnwrittenSampleErrors := by
  intro s j hj hunwritten hlow
  have bad := State.checkSin_eq_some hj hunwritten hlow
  refine ⟨fun hn => exec_of_error (i := .preemph) ?_, fun hconfig => exec_of_error (i := .run) ?_⟩
  · exact raises_later (State.checkN_eq_none.2 ⟨Nat.zero_le _, hn⟩) bad
  · exact raises_later (hconfig.checkN le_rfl) (raises_later (hconfig.checkF le_rfl) (raises_later hconfig.checkC bad))

/-- Settles O31: ERR is set by the error entry alone, which leaves all that the statement names, and the error is that of
a check. -/
theorem failedCommandKeepsEverythingElse : Obligations.FailedCommandKeepsEverythingElse := by
  intro s t i hexec hclear herr
  rcases exec_cases hexec with ⟨-, rfl⟩ | ⟨-, e, hcheck, rfl⟩ | ⟨-, -, rfl⟩
  · cases herr
  · refine ⟨rfl, fun d => rfl, (s.errorEntry_fillsTo i.op e).1, s.errorEntry_keepsHost i.op e, rfl, ?code, rfl⟩
    rw [State.errorEntry_of_no_err hclear]
    exact ErrCode.byte_mem_of_ne_illegalCmd (s.legalCommandCheck_checkOf i e hcheck)
  · exact absurd (State.err_of_bodyOf_err herr) (by simp [hclear])

/-- Settles O27: the codes by their table, and the two cases of error entry. -/
theorem errorEntryWritesStatusOnly : Obligations.ErrorEntryWritesStatusOnly :=
  ⟨rfl, rfl, rfl, rfl, rfl, fun _ op e =>
    ⟨fun h => State.errorEntry_of_no_err h op e, fun h => State.errorEntry_of_err h op e⟩⟩

/-- Settles O54: a write to STATUS, acceptance and reset clear the causes, CTRL masks them, and CLEAR_STATUS completes
with DONE as the one cause. -/
theorem interruptLevel : Obligations.InterruptLevel := by
  intro s
  refine ⟨rfl, fun herr => ?status, ?ctrl, fun w herr hidle => ?cmd, fun t ht => ?clear, fun t ht => ?reset, rfl⟩
  case status =>
    rw [show s.hostWrite 0x00000009 0x2 = _ from State.hostWrite_regAddr (r := .status) rfl]
    exact State.irq_of_no_cause rfl herr
  case ctrl =>
    rw [show s.hostWrite 0x0000000A 0x0 = _ from State.hostWrite_regAddr (r := .ctrl) rfl]
    exact State.irq_of_masked rfl
  case cmd =>
    obtain ⟨d, l, n, taken⟩ := State.accept_eq_pending (w := w) hidle (.inl herr)
    rw [State.hostWrite_cmd, taken]
    exact State.irq_of_no_cause rfl herr
  case clear =>
    rw [exec_of_checks (i := .clearStatus) (by decide) rfl] at ht
    cases ht
    exact ⟨rfl, rfl, Bool.and_true _⟩
  case reset =>
    rw [exec_softReset] at ht
    cases ht
    rfl

end Sys2Proof.Machine
end
